-- ==== Sys2Proof/Word.lean ====
section
/-! DEFINITION. The word types of the block (00_scope.md R5, R6): a byte, a millisecond time, the 9-bit count. -/

namespace Sys2Proof

/-- A byte: 8 bits, bit 0 the least significant (R6). -/
abbrev Byte := BitVec 8

/-- A millisecond time of `TIME_W` = 32 bits (R5). -/
abbrev Time := BitVec 32

/-- The frame buffer's count, `CNT_W` = 9 bits (R5, R13). -/
abbrev Count := BitVec 9

/-- A command code `cmd_op[1:0]` (R47). -/
abbrev CmdOp := BitVec 2

end Sys2Proof
end

