-- ==== Sys2Proof/Config.lean ====
section
/-! DEFINITION. The parameters of the block (00_scope.md R5) and the free values. What the spec leaves OPEN is a
constant with no body. -/

namespace Sys2Proof

/-- The message-type tags (30_encoding.md R63): a closed enumeration, in the table's order. -/
inductive Tag where
  | print | ready | echo | alive | initRadio | encryptKey | fromRadio | toRadio | nak
deriving DecidableEq, Repr

/-- All nine tags, in the table's order (R63). -/
def Tag.all : List Tag :=
  [.print, .ready, .echo, .alive, .initRadio, .encryptKey, .fromRadio, .toRadio, .nak]

/-- The values of the nine tags (R63): a parameter, nine bytes, in the table's order. -/
structure Tags where
  print : Byte
  ready : Byte
  echo : Byte
  alive : Byte
  initRadio : Byte
  encryptKey : Byte
  fromRadio : Byte
  toRadio : Byte
  nak : Byte
deriving DecidableEq, Repr

/-- The value of a tag. -/
def Tags.byte (ts : Tags) : Tag → Byte
  | .print => ts.print
  | .ready => ts.ready
  | .echo => ts.echo
  | .alive => ts.alive
  | .initRadio => ts.initRadio
  | .encryptKey => ts.encryptKey
  | .fromRadio => ts.fromRadio
  | .toRadio => ts.toRadio
  | .nak => ts.nak

/-- The parameters of an instance of the block that are plain data (R5; D9, D12; rows 2 and 3 of
93_implementation_defined.md). The machine takes them as an argument: State carries them, and no step writes them
(log 8). -/
structure Settings where
  /-- `TIMEOUT_MS` (R119). -/
  timeoutMs : Time
  /-- `TAG_PRINT` .. `TAG_NAK` (R63). -/
  tags : Tags
deriving DecidableEq, Repr

/-- All the parameters an operation takes ("Open parameters a model takes as arguments" of 92_eei_decisions.md). -/
structure Params where
  /-- `CKSUM`: a pure total function from a byte list to one byte (R61). -/
  cksum : List Byte → Byte
  /-- `TIMEOUT_MS` (R119). -/
  timeoutMs : Time
  /-- `TAG_PRINT` .. `TAG_NAK` (R63). -/
  tag : Tag → Byte

namespace Config

/-- `CAP`: the frame buffer's bytes (R5). -/
def cap : Nat := 256

/-- `L_MAX`: the largest declared length (R5). -/
def lMax : Nat := 255

/-- `CKSUM` is OPEN (R5, R61, D8): no body, so no proof can use its values (log 7). -/
opaque cksum : List Byte → Byte

/-- What the buffer cell at an address holds at power-on: unspecified (R16, R126, 93 rows 4 and 6), so a free value
of the address; no body (log 6). -/
opaque powerOnByte : Nat → Byte

/-- The defaults, which are the values this hardware takes (R5, R63, R119). -/
def defaults : Settings where
  timeoutMs := 20
  tags :=
    { print := 0x01, ready := 0x02, echo := 0x03, alive := 0x04, initRadio := 0x05, encryptKey := 0x06,
      fromRadio := 0x07, toRadio := 0x08, nak := 0x09 }

end Config

/-- The parameters of a block with these settings, for whichever checksum `Config.cksum` is (R5). -/
def Settings.params (c : Settings) : Params where
  cksum := Config.cksum
  timeoutMs := c.timeoutMs
  tag := c.tags.byte

end Sys2Proof
end

