-- ==== Sys2Proof/Syntax.lean ====
section
/-! DEFINITION. The step kinds of the block, its "instructions" (00_scope.md R1, R2): one constructor for each row of
spec/opcode_table.json; and the port words that carry them (30_encoding.md section 1). -/

namespace Sys2Proof

/-- The eight step kinds of spec/opcode_table.json. The operand types carry the operands' ranges (R50, R52, R53). -/
inductive Instr where
  /-- BEGIN, `cmd_op = 0b00` (R93). -/
  | beginCmd
  /-- POLL, `cmd_op = 0b01` (R73). -/
  | poll
  /-- ACKPKT, `cmd_op = 0b10` (R95). -/
  | ackpkt
  /-- RSVD, the reserved command, `cmd_op = 0b11` (R98). -/
  | rsvd
  /-- RX: the byte receiver appends `rx_data` (R68). -/
  | rx (b : Byte)
  /-- TX_BYTE: one queued byte leaves (R103). -/
  | txByte
  /-- READ: the packet view at `rd_addr` (R99). -/
  | read (addr : BitVec 8)
  /-- TICK: the millisecond clock advances by `d` (R117). -/
  | tick (d : Time)
deriving DecidableEq, Repr

/-- The ports that carry a step's word (R47, R50 to R53). The port, not a bit pattern, tells the kinds of words apart. -/
inductive Port where
  /-- `cmd_op`, 2 bits. -/
  | cmd
  /-- `rx_data`, 8 bits. -/
  | rx
  /-- the taken handshake `tx_valid` and `tx_ready`: `tx_data` is an output, so no input bits. -/
  | tx
  /-- `rd_addr`, 8 bits. -/
  | read
  /-- the advance of `now_ms`, 32 bits. -/
  | clock
deriving DecidableEq, Repr

/-- The number of input bits of a port (R47, R50, R51, R52, R53). -/
def Port.width : Port → Nat
  | .cmd => 2
  | .rx => 8
  | .tx => 0
  | .read => 8
  | .clock => 32

/-- A word offered at a port: the port, and the bits in the low end of a 32-bit field (32 is the widest port). -/
structure PortWord where
  port : Port
  bits : BitVec 32
deriving DecidableEq, Repr

end Sys2Proof
end

