-- ==== Sys2Proof/WellFormed.lean ====
section
/-! DEFINITION. The checks on terms that the types do not already make. Every term of `Instr` is well formed: its
operand types are exactly the operands' ranges. -/

namespace Sys2Proof

/-- A port word fits its port: no bit at or above the port's width is set (R47, R50 to R53). -/
def PortWord.wf (w : PortWord) : Bool := decide (w.bits.toNat < 2 ^ w.port.width)

/-- "tags must be distinct" (R63): the nine tags have nine values. -/
def Params.wf (p : Params) : Bool :=
  decide ((Tag.all.map p.tag).Pairwise (· ≠ ·))

/-- The settings of an instance have distinct tags (R63). -/
def Settings.wf (c : Settings) : Bool := c.params.wf

end Sys2Proof
end

