-- ==== Sys2Proof/Decode.lean ====
section
/-! DEFINITION. The decoder of port words (30_encoding.md R47 to R53), the encoder, and the reading of a word of
spec/opcode_table.json. -/

namespace Sys2Proof

/-- Why a port word is no step. -/
inductive DecodeError where
  /-- The word has a bit set that its port does not have (R47, R50 to R53). -/
  | tooWide (p : Port)
deriving DecidableEq, Repr

/-- The command of a 2-bit code; all four codes are defined (R47, R48). -/
def commandOf (op : CmdOp) : Instr :=
  match op.toNat with
  | 0 => .beginCmd
  | 1 => .poll
  | 2 => .ackpkt
  | _ => .rsvd

/-- Decode a port word: total, rejecting by name a word that does not fit its port. -/
def decode (w : PortWord) : Except DecodeError Instr :=
  if w.wf then
    .ok (match w.port with
      | .cmd => commandOf (w.bits.setWidth 2)
      | .rx => .rx (w.bits.setWidth 8)
      | .tx => .txByte
      | .read => .read (w.bits.setWidth 8)
      | .clock => .tick w.bits)
  else .error (.tooWide w.port)

/-- The port word of a step kind, written from the same tables (R47, R50 to R53). -/
def encode : Instr → PortWord
  | .beginCmd => ⟨.cmd, 0b00⟩
  | .poll => ⟨.cmd, 0b01⟩
  | .ackpkt => ⟨.cmd, 0b10⟩
  | .rsvd => ⟨.cmd, 0b11⟩
  | .rx b => ⟨.rx, b.setWidth 32⟩
  | .txByte => ⟨.tx, 0⟩
  | .read a => ⟨.read, a.setWidth 32⟩
  | .tick d => ⟨.clock, d⟩

/-- The port word that a bare word of spec/opcode_table.json stands for. A table row has no port, and the rows RX,
TX_BYTE and READ have no fixed bits, so the port is chosen (log 16, DESIGN CHOICE): more than 8 bits is the clock
port, a byte below 4 is a command, any other byte is a received byte. -/
def tableWord (nbits w : Nat) : PortWord :=
  if 8 < nbits then ⟨.clock, BitVec.ofNat 32 w⟩
  else if w < 4 then ⟨.cmd, BitVec.ofNat 32 w⟩
  else ⟨.rx, BitVec.ofNat 32 w⟩

/-- The instruction the decoder reads from a word numbered as spec/opcode_table.json numbers it. -/
def decodeTableWord (nbits w : Nat) : Option Instr :=
  match decode (tableWord nbits w) with
  | .ok i => some i
  | .error _ => none

end Sys2Proof
end

