-- ==== Sys2Proof/Machine/State.lean ====
section
/-! DEFINITION. The state of the block (10_state.md), its reset value (70_reset_and_hazards.md R126), and the reasons a
step can stop. -/

namespace Sys2Proof.Machine

/-- The receive state `RST` (R12). The unused code 0b11 has no constructor, as R54 says (log 12). -/
inductive RecvState where
  /-- AwaitingPrologueByte1. -/
  | p1
  /-- AwaitingPrologueByte2. -/
  | p2
  /-- AwaitingBody. -/
  | body
deriving DecidableEq, Repr

/-- A command's response (R49). `pkt v` carries the packet view `BUF[0..L-1]` as it stood at the POLL (R46). -/
inductive Response where
  | nopkt
  | pkt (view : List Byte)
deriving DecidableEq, Repr

/-- The error causes (R108), a ghost value. -/
inductive Cause where
  | none
  /-- E1 -/
  | prologueTimeout
  /-- E2 -/
  | prologueCorrupt
  /-- E3 -/
  | bodyTimeout
  /-- E4 -/
  | checksumMismatch
  /-- E5 -/
  | prologueOverrun
  /-- E6 -/
  | bodyOverrun
deriving DecidableEq, Repr

/-- The frame buffer `BUF` (R16, R32): the cells written since power-on, by strictly rising address. An address that
is not listed holds no value that the spec states; what reading it gives is `State.bufAt` (log 6). -/
abbrev Memory := List Host.Cell

/-- The canonical form of the buffer: addresses strictly rising and below `CAP` (R32). -/
abbrev Memory.wf (m : Memory) : Prop :=
  m.Pairwise (fun c d => c.1 < d.1) ∧ ∀ c ∈ m, c.1 < Config.cap

/-- The port-side state of a command in progress (R30, R43, R92). -/
structure PortRegs where
  /-- the `cmd_op` accepted and not yet committed (R30) -/
  inFlight : Option CmdOp
  /-- the bytes that arrived since the acceptance, in arrival order (R43) -/
  held : List Byte
  /-- the committed command's response, not yet delivered (R30, R92) -/
  rspWait : Option Response
  /-- the response on `rsp_valid`, `rsp_pkt` and `rsp_len` in this cycle (R29, R30) -/
  rspOut : Option Response
deriving DecidableEq, Repr

/-- The observation of an execution (R20). -/
structure Trace where
  /-- the bytes the TX agent has sent, in order -/
  wire : List Byte
  /-- the response of every command, in order -/
  responses : List Response
  /-- the cause code of every POLL, in order; ghost -/
  causes : List Cause
deriving DecidableEq, Repr

/-- The input ports' levels at one rising edge of `clk` (R29). -/
structure Edge where
  /-- `rst_n` -/
  rstN : Bool
  /-- `now_ms` -/
  nowMs : Time
  /-- `rx_data`, where `rx_valid = 1` -/
  rx : Option Byte
  /-- `cmd_op`, where `cmd_valid = 1` -/
  cmd : Option CmdOp
  /-- `tx_ready` -/
  txReady : Bool
  /-- `rd_addr` -/
  rdAddr : BitVec 8
deriving DecidableEq, Repr

/-- One choice of the environment (log 1). -/
inductive Input where
  /-- one transaction is offered: the step kind of a port word (R2) -/
  | word (w : PortWord)
  /-- the host sets the sink's readiness (R19) -/
  | sink (ready : Bool)
  /-- one rising clock edge with all input ports (R29 to R31, R126); `commit` says whether an accepted command's
  `CMD_LAT` ends at this edge (R30, log 18) -/
  | edge (e : Edge) (commit : Bool)
deriving DecidableEq, Repr

/-- The state of the block: its registers (R11 to R17), the environment state it reads (R19), its port side (R29 to
R31, R43), the observation (R20), and two fields of the model's own: the instance's parameters (R5, log 8) and the
environment's coming choices (log 1). -/
structure State where
  /-- `EN` (R11) -/
  en : Bool
  /-- `RST` (R12) -/
  rst : RecvState
  /-- `CNT`, also the write cursor (R13, R14) -/
  cnt : Count
  /-- `TS` (R15) -/
  ts : Time
  /-- `BUF` (R16) -/
  buf : Memory
  /-- `TXQ`, head first (R17) -/
  txq : List Byte
  /-- `NOW` (R19) -/
  now : Time
  /-- `SINK_READY` (R19) -/
  sinkReady : Bool
  /-- `rd_data` (R29, R99) -/
  rdData : Byte
  port : PortRegs
  trace : Trace
  /-- the instance's parameters, which the steps read and none writes (R5, log 8) -/
  settings : Settings
  inputs : List Input
deriving DecidableEq, Repr

/-- Why the machine stops with a fault: never. "No step of this block faults" (R8), so there is no constructor
(log 27). -/
inductive Fault
deriving DecidableEq, Repr

/-- Why a step has no meaning. -/
inductive Refusal where
  /-- Raised by `exec` for an instruction without a meaning; here every instruction has one. Safe. -/
  | notModelled (mnemonic : String)
  /-- Raised by `step` for a port word with a bit its port does not have (R47, R50 to R53; log 16). Safe: no such
  word exists on the ports. -/
  | badPortWord (e : DecodeError)
deriving DecidableEq, Repr

/-- The state right after reset of an instance with the given parameters (R5, R126): `EN`, `RST`, `CNT` and `TXQ` as R126 gives them; nothing in progress. The
rest are values the spec leaves open: `TS` (log 5), `BUF` (log 6), `NOW` and `SINK_READY` (log 9), `rd_data`
(log 10), the traces (log 15), no input yet (log 4). -/
def State.resetWith (c : Settings) : State where
  en := false
  rst := .p1
  cnt := 0#9
  ts := 0
  buf := []
  txq := []
  now := 0
  sinkReady := true
  rdData := 0
  port := { inFlight := none, held := [], rspWait := none, rspOut := none }
  trace := { wire := [], responses := [], causes := [] }
  settings := c
  inputs := []

/-- The state right after reset of this hardware, which takes the defaults of R5. -/
def State.reset : State := State.resetWith Config.defaults

end Sys2Proof.Machine
end

