-- ==== Sys2Proof/Machine/Ops.lean ====
section
/-! DEFINITION. The operations over the frame buffer and the registers that the steps share, among them RESET_RX (R21),
SEND (R101) and RECOVER (R109), this block's form of taking an exception. R113: there is no return from it. -/

namespace Sys2Proof.Machine

/-- The byte listed at an address, if any. -/
def Memory.read : Memory → Nat → Option Byte
  | [], _ => none
  | (k, v) :: rest, a => if k = a then some v else Memory.read rest a

/-- Write one byte, keeping the addresses strictly rising. -/
def Memory.write : Memory → Nat → Byte → Memory
  | [], a, b => [(a, b)]
  | (k, v) :: rest, a, b =>
    if a < k then (a, b) :: (k, v) :: rest
    else if a = k then (a, b) :: rest
    else (k, v) :: Memory.write rest a b

/-- `BUF[i]`: the last byte written there, or the cell's unspecified power-on value (R16, R99, log 6). -/
def State.bufAt (s : State) (i : Nat) : Byte :=
  (s.buf.read i).getD (Config.powerOnByte i)

/-- `CNT[7:0]`, the address the next stored byte goes to (R14, R33). -/
def State.cursor (s : State) : Nat := (s.cnt.setWidth 8).toNat

/-- Store a received byte (R68): capture `TS` if it is the attempt's first (R69), write `BUF[CNT[7:0]]`, count it. -/
def State.store (s : State) (b : Byte) : State :=
  { s with
    ts := if s.cnt = 0#9 then s.now else s.ts
    buf := s.buf.write s.cursor b
    cnt := s.cnt + 1#9 }

/-- `RESET_RX()` (R21): `TS`, `BUF`, `EN` and `TXQ` stay. -/
def State.resetRx (s : State) : State := { s with cnt := 0#9, rst := .p1 }

/-- A header-only packet (R62): length 3, the checksum of the type alone, the type. -/
def controlFrame (p : Params) (t : Tag) : List Byte := [0x03, p.cksum [p.tag t], p.tag t]

/-- `SEND(tag)` (R101). -/
def State.send (s : State) (p : Params) (t : Tag) : State :=
  { s with txq := s.txq ++ controlFrame p t }

/-- `return r` of a command step: the response enters the response trace at the step (R7, R20, R92). -/
def State.respond (s : State) (r : Response) : State :=
  { s with trace := { s.trace with responses := s.trace.responses ++ [r] } }

/-- The cause of a POLL enters the ghost cause trace (R20, R108). -/
def State.noteCause (s : State) (c : Cause) : State :=
  { s with trace := { s.trace with causes := s.trace.causes ++ [c] } }

/-- `RECOVER(n)` (R109), written `raise En()` in 41_poll.md: the one recovery of every cause. -/
def State.recover (s : State) (p : Params) (c : Cause) : State :=
  (((s.resetRx).send p .nak).noteCause c).respond .nopkt

/-- The head of `TXQ` leaves on the wire (R103); nothing leaves an empty queue. -/
def State.popTx (s : State) : State :=
  match s.txq with
  | [] => s
  | b :: rest => { s with txq := rest, trace := { s.trace with wire := s.trace.wire ++ [b] } }

/-- What `rst_n = 0` at a rising edge sets (R126): `TS` and `BUF` stay, no frame is queued (R127), the command in
progress and its held bytes are discarded. -/
def State.resetPin (s : State) : State :=
  { s with
    en := false
    rst := .p1
    cnt := 0#9
    txq := []
    port := { inFlight := none, held := [], rspWait := none, rspOut := none } }

end Sys2Proof.Machine
end

