-- ==== Sys2Proof/Machine/Clock.lean ====
section
/-! DEFINITION. The clock's step, TICK (60_exceptions.md R117). -/

namespace Sys2Proof.Machine

/-- TICK(d): `NOW <- (NOW + d) mod 2^32` (R117). -/
def execTick (d : Time) (s : State) : Host.Outcome State Fault Refusal :=
  .next { s with now := s.now + d }

end Sys2Proof.Machine
end

