-- ==== Sys2Proof/Machine/Operands.lean ====
section
/-! DEFINITION. The values the steps read (10_state.md R22, 30_encoding.md R49, R54, R57, R60, 60_exceptions.md R108, R118)
and the encodings of internal values. -/

namespace Sys2Proof.Machine

/-- The declared length `L = zext_9(BUF[0])` (R22). -/
def State.declared (s : State) : Count := (s.bufAt 0).setWidth 9

/-- `BUF[a..a+n-1]` (R6). -/
def State.bufRange (s : State) (a n : Nat) : List Byte :=
  (List.range n).map fun i => s.bufAt (a + i)

/-- The packet view `BUF[0..L-1]` (R57, R86). -/
def State.packetView (s : State) : List Byte := s.bufRange 0 s.declared.toNat

/-- The region the checksum covers, `BUF[2..L-1]`, empty where `L <= 2` (R60, 90_conflicts.md C8). -/
def State.checksumRegion (s : State) : List Byte := s.bufRange 2 (s.declared.toNat - 2)

/-- `elapsed = (NOW - TS) mod 2^32` (R118). -/
def State.elapsed (s : State) : Time := s.now - s.ts

/-- The internal code of the receive state (R54). -/
def RecvState.code : RecvState → BitVec 2
  | .p1 => 0b00
  | .p2 => 0b01
  | .body => 0b10

/-- The cause codes 0..6 (R108). -/
def Cause.code : Cause → Nat
  | .none => 0
  | .prologueTimeout => 1
  | .prologueCorrupt => 2
  | .bodyTimeout => 3
  | .checksumMismatch => 4
  | .prologueOverrun => 5
  | .bodyOverrun => 6

/-- The response word `{rsp_pkt, rsp_len[7:0]}` (R49). -/
def Response.word : Response → BitVec 9
  | .nopkt => 0b0#1 ++ 0x00#8
  | .pkt v => 0b1#1 ++ BitVec.ofNat 8 v.length

end Sys2Proof.Machine
end

