-- ==== Sys2Proof/Machine/Flags.lean ====
section
/-! DEFINITION. The one-bit conditions the steps test: the prologue check (R56), the checksum check (R60), the timeout
(R119), the enables (R92, R103), and the port's `cmd_ready` (R30). -/

namespace Sys2Proof.Machine

/-- `BUF[1] = (~BUF[0]) & 0xFF` (R56). -/
def State.complementOk (s : State) : Bool := decide (s.bufAt 1 = ~~~ s.bufAt 0)

/-- `CKSUM(BUF[2..L-1]) = BUF[1]` (R60). -/
def State.checksumOk (s : State) (p : Params) : Bool :=
  decide (p.cksum s.checksumRegion = s.bufAt 1)

/-- `timed_out() := elapsed > TIMEOUT_MS`, strict (R119). -/
def State.timedOut (s : State) (p : Params) : Bool := decide (p.timeoutMs < s.elapsed)

/-- A command step is enabled only when `TXQ` is empty (R92). -/
def State.commandEnabled (s : State) : Bool := s.txq.isEmpty

/-- TX_BYTE is enabled iff `TXQ` is non-empty and `SINK_READY = 1` (R103). -/
def State.txEnabled (s : State) : Bool := !s.txq.isEmpty && s.sinkReady

/-- A command is in progress at the ports from its acceptance to its completion, which waits for `TXQ` to drain
(R30). -/
def State.inProgress (s : State) : Bool :=
  s.port.inFlight.isSome || s.port.rspWait.isSome || !s.txq.isEmpty

/-- `cmd_ready` "is 1 exactly when no command is in progress and `rst_n = 1`" (R30). -/
def State.cmdReady (s : State) (rstN : Bool) : Bool := rstN && !s.inProgress

end Sys2Proof.Machine
end

