-- ==== Sys2Proof/Machine/Commands.lean ====
section
/-! DEFINITION. The command agent's steps other than POLL: BEGIN, ACKPKT, the reserved command, READ (42_commands.md). -/

namespace Sys2Proof.Machine

/-- A command step is enabled only while `TXQ` is empty; else it is held, which changes nothing (R8, R92, log 2). -/
def State.asCommand (s : State) (f : State → State) : State :=
  if s.commandEnabled then f s else s

/-- An enabled BEGIN (R93, R94). -/
def State.begin (s : State) (p : Params) : State :=
  ((State.resetRx { s with en := true }).send p .alive).respond .nopkt

/-- An enabled ACKPKT (R95 to R97). -/
def State.ackpkt (s : State) (p : Params) : State :=
  if s.en then (s.resetRx.send p .ready).respond .nopkt else s.respond .nopkt

/-- BEGIN (R93). -/
def execBegin (s : State) : Host.Outcome State Fault Refusal :=
  .next (s.asCommand fun t => t.begin t.settings.params)

/-- ACKPKT (R95). -/
def execAckpkt (s : State) : Host.Outcome State Fault Refusal :=
  .next (s.asCommand fun t => t.ackpkt t.settings.params)

/-- The reserved command: completes as a no-op with response NOPKT (R48, R98, log 13). -/
def execRsvd (s : State) : Host.Outcome State Fault Refusal :=
  .next (s.asCommand fun t => t.respond .nopkt)

/-- READ(i) (R99): `rd_data` shows `BUF[i]`; no register is written, and it is enabled in every state. -/
def execRead (addr : BitVec 8) (s : State) : Host.Outcome State Fault Refusal :=
  .next { s with rdData := s.bufAt addr.toNat }

end Sys2Proof.Machine
end

