-- ==== Sys2Proof/Machine/Poll.lean ====
section
/-! DEFINITION. The reliability state machine's step, POLL (41_poll.md): which one case applies (R73, R91), and what each
case does (R74 to R88). -/

namespace Sys2Proof.Machine

/-- The cases of POLL. R91: exactly one applies to any state. -/
inductive PollCase where
  /-- R74: `EN = 0`. -/
  | disabled
  /-- R75: P1, `CNT = 0`. -/
  | idle
  /-- R76: P1, `CNT >= 1`. -/
  | firstByte
  /-- R77: P2, `CNT = 0`, unreachable. -/
  | p2Empty
  /-- R78: P2, `CNT = 1`, not timed out. -/
  | p2Wait
  /-- R79: P2, `CNT = 1`, timed out. -/
  | prologueTimeout
  /-- R80: P2, `CNT = 2`, complement ok. -/
  | accept
  /-- R81: P2, `CNT = 2`, complement bad. -/
  | prologueCorrupt
  /-- R82: P2, `CNT >= 3`. -/
  | prologueOverrun
  /-- R83: BODY, `CNT = 0`, unreachable. -/
  | bodyEmpty
  /-- R84: BODY, incomplete, not timed out. -/
  | bodyWait
  /-- R85: BODY, incomplete, timed out. -/
  | bodyTimeout
  /-- R86: BODY, `CNT = L >= 2`, checksum ok. -/
  | ready
  /-- R87: BODY, `CNT = L >= 2`, checksum bad. -/
  | checksumMismatch
  /-- R88: BODY, `CNT >= 2`, `CNT > L`. -/
  | bodyOverrun
deriving DecidableEq, Repr

/-- The dispatch of R73, in its order. -/
def State.pollCase (s : State) (p : Params) : PollCase :=
  if s.en = false then .disabled
  else match s.rst with
    | .p1 => if s.cnt = 0#9 then .idle else .firstByte
    | .p2 =>
      if s.cnt = 0#9 then .p2Empty
      else if s.cnt = 1#9 then (if s.timedOut p then .prologueTimeout else .p2Wait)
      else if s.cnt = 2#9 then (if s.complementOk then .accept else .prologueCorrupt)
      else .prologueOverrun
    | .body =>
      if s.cnt = 0#9 then .bodyEmpty
      else if s.cnt = 1#9 ∨ s.cnt < s.declared then (if s.timedOut p then .bodyTimeout else .bodyWait)
      else if s.cnt = s.declared then (if s.checksumOk p then .ready else .checksumMismatch)
      else .bodyOverrun

/-- A POLL that is no error ends with cause 0 and its response (R73, R108). -/
def State.pollReturn (s : State) (r : Response) : State := (s.noteCause .none).respond r

/-- What each case does. -/
def State.runCase (s : State) (p : Params) : PollCase → State
  | .disabled => s.pollReturn .nopkt
  | .idle => s.pollReturn .nopkt
  | .firstByte => State.pollReturn { s with rst := .p2 } .nopkt
  | .p2Empty => State.pollReturn { s with rst := .p1 } .nopkt
  | .p2Wait => s.pollReturn .nopkt
  | .prologueTimeout => s.recover p .prologueTimeout
  | .accept => (State.send { s with cnt := 1#9, rst := .body } p .ready).pollReturn .nopkt
  | .prologueCorrupt => s.recover p .prologueCorrupt
  | .prologueOverrun => s.recover p .prologueOverrun
  | .bodyEmpty => State.pollReturn { s with rst := .p1 } .nopkt
  | .bodyWait => s.pollReturn .nopkt
  | .bodyTimeout => s.recover p .bodyTimeout
  | .ready => s.pollReturn (.pkt s.packetView)
  | .checksumMismatch => s.recover p .checksumMismatch
  | .bodyOverrun => s.recover p .bodyOverrun

/-- An enabled POLL: the one case that applies, and nothing more (R91). -/
def State.poll (s : State) (p : Params) : State := s.runCase p (s.pollCase p)

/-- POLL (R73), a command step (R92). -/
def execPoll (s : State) : Host.Outcome State Fault Refusal :=
  .next (s.asCommand fun t => t.poll t.settings.params)

end Sys2Proof.Machine
end

