-- ==== Sys2Proof/Machine/Rx.lean ====
section
/-! DEFINITION. The byte receiver's step, RX_BYTE (40_rx.md). -/

namespace Sys2Proof.Machine

/-- RX_BYTE(b) (R68): dropped while disabled (R71) and while the buffer is full (R70), else stored (R69). It is
enabled always and reads neither `RST` nor `TXQ` (R72). -/
def execRx (b : Byte) (s : State) : Host.Outcome State Fault Refusal :=
  .next (if s.en = false then s else if s.cnt = 256#9 then s else s.store b)

end Sys2Proof.Machine
end

