-- ==== Sys2Proof/Machine/Tx.lean ====
section
/-! DEFINITION. The TX agent's step, TX_BYTE (43_tx.md). -/

namespace Sys2Proof.Machine

/-- TX_BYTE (R103): where it is not enabled nothing is sent (R8, R106, log 2). -/
def execTxByte (s : State) : Host.Outcome State Fault Refusal :=
  .next (if s.txEnabled then s.popTx else s)

end Sys2Proof.Machine
end

