-- ==== Sys2Proof/Machine/Dispatch.lean ====
section
/-! DEFINITION. One arm for each row of spec/opcode_table.json. -/

namespace Sys2Proof.Machine

def exec (i : Instr) (s : State) : Host.Outcome State Fault Refusal :=
  match i with
  | .beginCmd => Sys2Proof.Machine.execBegin s
  | .poll => Sys2Proof.Machine.execPoll s
  | .ackpkt => Sys2Proof.Machine.execAckpkt s
  | .rsvd => Sys2Proof.Machine.execRsvd s
  | .rx b => Sys2Proof.Machine.execRx b s
  | .txByte => Sys2Proof.Machine.execTxByte s
  | .read addr => Sys2Proof.Machine.execRead addr s
  | .tick d => Sys2Proof.Machine.execTick d s

end Sys2Proof.Machine
end

