-- ==== Sys2Proof/Machine/Ports.lean ====
section
/-! DEFINITION. The cycle-level port protocol (10_state.md R29 to R31, 20_memory.md R42 and R43, 70_reset_and_hazards.md
R126): a clock edge is the transactions it delivers, run one after another by `exec`, and an update of the port side. -/

namespace Sys2Proof.Machine

/-- Run a list of steps in order, stopping at the first that does not answer a next state (R2, R41). -/
def execAll : List Instr → State → Host.Outcome State Fault Refusal
  | [], s => .next s
  | i :: rest, s =>
    match exec i s with
    | .next t => execAll rest t
    | .fault r => .fault r
    | .refused r => .refused r

/-- The accepted command whose step commits at this edge: its latency ends here and it is enabled (R30, R92). -/
def State.commitOp (s : State) (commit : Bool) : Option CmdOp :=
  if commit && s.commandEnabled then s.port.inFlight else none

/-- The step of the clock at an edge: `now_ms` changing from one value to another is one TICK (R31). -/
def State.edgeTick (s : State) (e : Edge) : List Instr :=
  if e.nowMs = s.now then [] else [.tick (e.nowMs - s.now)]

/-- The received bytes whose RX_BYTE steps take place at an edge, in order. A commit releases the held bytes, and the
edge's own byte follows them; without a commit an accepted command holds the byte; else it is taken at once (R31,
R42, R43, log 19). -/
def State.edgeBytes (s : State) (e : Edge) (commit : Bool) : List Byte :=
  match s.commitOp commit with
  | some _ => s.port.held ++ e.rx.toList
  | none => if s.port.inFlight.isSome then [] else e.rx.toList

/-- The transactions of one edge with `rst_n = 1`, in order (R31, R42, log 20). `NOW` is sampled at the edge, so TICK
precedes the command and the bytes (R30, R31). -/
def State.edgeSteps (s : State) (e : Edge) (commit : Bool) : List Instr :=
  [.read e.rdAddr] ++ s.edgeTick e
    ++ (if !s.txq.isEmpty && e.txReady then [.txByte] else [])
    ++ ((s.commitOp commit).map commandOf).toList
    ++ (s.edgeBytes e commit).map .rx

/-- The command in progress completes at the first edge after its commit at which `TXQ` is empty (R30, log 22). -/
def State.completes (s : State) : Bool := s.port.rspWait.isSome && s.txq.isEmpty

/-- The port side after an edge with `rst_n = 1`, from the state `s` before the edge and the response trace after the
edge's steps: acceptance, commit, held bytes, completion (R30, R43, log 21). -/
def State.portAfter (s : State) (e : Edge) (commit : Bool) (responses : List Response) : PortRegs :=
  match s.commitOp commit with
  | some _ =>
    { inFlight := none, held := [], rspWait := responses.getLast?, rspOut := none }
  | none =>
    { inFlight := if s.cmdReady e.rstN && e.cmd.isSome then e.cmd else s.port.inFlight
      held := if s.port.inFlight.isSome then s.port.held ++ e.rx.toList else s.port.held
      rspWait := if s.completes then none else s.port.rspWait
      rspOut := if s.completes then s.port.rspWait else none }

/-- One rising edge of `clk`. With `rst_n = 0` the block is reset, a received byte is dropped, and only the clock and
the READ port go on (R126, log 24); else the edge's transactions run and the port side follows (R30, R31). -/
def clockEdge (e : Edge) (commit : Bool) (s : State) : Host.Outcome State Fault Refusal :=
  if e.rstN = false then
    match execAll ([.read e.rdAddr] ++ s.edgeTick e) { s with sinkReady := e.txReady } with
    | .next t => .next t.resetPin
    | .fault r => .fault r
    | .refused r => .refused r
  else
    match execAll (s.edgeSteps e commit) { s with sinkReady := e.txReady } with
    | .next t => .next { t with port := s.portAfter e commit t.trace.responses }
    | .fault r => .fault r
    | .refused r => .refused r

/-- The output ports in a cycle (R29). A data port whose valid signal is 0 carries no stated value (log 29). -/
structure Outputs where
  /-- `cmd_ready` -/
  cmdReady : Bool
  /-- `{rsp_pkt, rsp_len}`, where `rsp_valid = 1` -/
  rsp : Option (BitVec 9)
  /-- `tx_data`, where `tx_valid = 1` -/
  tx : Option Byte
  /-- `rd_data` -/
  rdData : Byte
deriving DecidableEq, Repr

/-- The output ports; `rst_n = 0` makes `cmd_ready`, `rsp_valid` and `tx_valid` 0 (R29, R30, R126). -/
def State.outputs (s : State) (rstN : Bool) : Outputs where
  cmdReady := s.cmdReady rstN
  rsp := if rstN then s.port.rspOut.map Response.word else none
  tx := if rstN then s.txq.head? else none
  rdData := s.rdData

end Sys2Proof.Machine
end

