-- ==== Sys2Proof/Machine/Step.lean ====
section
/-! DEFINITION. One step of the machine: the environment's next choice (log 1). -/

namespace Sys2Proof.Machine

/-- One step. A port word is decoded and run; a new sink level is taken; a clock edge runs its transactions. With no
input the block idles (log 3). -/
def step (s : State) : Host.Outcome State Fault Refusal :=
  match s.inputs with
  | [] => .next s
  | .word w :: rest =>
    match decode w with
    | .ok i => exec i { s with inputs := rest }
    | .error e => .refused (.badPortWord e)
  | .sink b :: rest => .next { s with inputs := rest, sinkReady := b }
  | .edge e commit :: rest => clockEdge e commit { s with inputs := rest }

/-- The state in which the next step runs the port word of a table word (log 4): it is put first among the inputs. -/
def State.withFetchWord (s : State) (nbits w : Nat) : State :=
  { s with inputs := .word (tableWord nbits w) :: s.inputs }

end Sys2Proof.Machine
end

