-- ==== Sys2Proof/Machine/Scenario.lean ====
section
/-! DEFINITION. The scenario syntax of 30_encoding.md R67: each line as the steps it stands for. -/

namespace Sys2Proof.Machine

/-- A line of a scenario (R67). -/
inductive Line where
  | begin
  | poll
  | ackpkt
  | rsvd
  /-- one or several received bytes, in order -/
  | rx (bs : List Byte)
  | tick (n : Nat)
  | drain
  | read (i : BitVec 8)
deriving DecidableEq, Repr

/-- The steps of a line (R67). `TXQ` holds at most 3 bytes (R28), so DRAIN is three TX_BYTE steps; one that finds
`TXQ` empty sends nothing. -/
def Line.steps : Line → List Instr
  | .begin => [.beginCmd]
  | .poll => [.poll]
  | .ackpkt => [.ackpkt]
  | .rsvd => [.rsvd]
  | .rx bs => bs.map .rx
  | .tick n => [.tick (BitVec.ofNat 32 n)]
  | .drain => [.txByte, .txByte, .txByte]
  | .read i => [.read i]

/-- The steps of a scenario. -/
def scenario (ls : List Line) : List Instr := ls.flatMap Line.steps

end Sys2Proof.Machine
end

