-- ==== Sys2Proof/Safety.lean ====
section
/-! DEFINITION. What claims say of a good state and a good run: the invariants R23, R24, R26 to R28 of 10_state.md, the
resident attempt of R25 and R26 as ghost data beside a state, and the whole frames on the wire of 43_tx.md R104. -/

namespace Sys2Proof.Machine

/-- The traces after a POLL of a cause and a response (R20, R49, R108). -/
def Trace.polled (tr : Trace) (c : Cause) (r : Response) : Trace :=
  { tr with causes := tr.causes ++ [c], responses := tr.responses ++ [r] }

/-- The response trace after a command (R20, R49). -/
def Trace.answered (tr : Trace) (r : Response) : Trace := { tr with responses := tr.responses ++ [r] }

/-- The tags of the three frames the block sends (R102). -/
def controlTags : List Tag := [.ready, .nak, .alive]

/-- The invariant of the machine. -/
structure State.Inv (s : State) : Prop where
  /-- R63: "tags must be distinct" -/
  tagsDistinct : s.settings.wf = true
  /-- the buffer keeps its canonical form (R32) -/
  bufCanonical : s.buf.wf
  /-- R23 -/
  cntInRange : s.cnt.toNat ≤ Config.cap
  /-- the cells below `CNT` have been written (R26), so no POLL reads a free value -/
  written : ∀ i < s.cnt.toNat, (s.buf.read i).isSome
  /-- R24 -/
  sequencing : s.rst ≠ .p1 → s.cnt ≠ 0#9
  /-- R27 -/
  disabledIdle : s.en = false → s.cnt = 0#9 ∧ s.rst = .p1 ∧ s.txq = []
  /-- R28: empty, or the rest of one control frame -/
  oneFrame : ∃ t ∈ controlTags, s.txq <:+ controlFrame s.settings.params t
  /-- bytes are held only while a command is in flight (R43) -/
  heldInFlight : s.port.held ≠ [] → s.port.inFlight.isSome
  /-- at most one command is in progress at the ports (R30) -/
  oneCommand : s.port.rspWait.isSome → s.port.inFlight = none

/-- Ghost data: the attempt in progress (R25, R26). -/
structure Attempt where
  /-- `b0, b1, …`: what RX_BYTE stored since the last `RESET_RX()`, in arrival order -/
  bytes : List Byte
  /-- a prologue accept (R80) has happened since then -/
  accepted : Bool
  /-- `NOW` at the RX_BYTE that raised `CNT` from 0 to 1 -/
  firstAt : Option Time
deriving DecidableEq, Repr

/-- No byte since the last `RESET_RX()`. -/
def Attempt.fresh : Attempt := { bytes := [], accepted := false, firstAt := none }

/-- The bytes the buffer keeps: all of them, or without the complement byte `b1` after an accept (R26). -/
def Attempt.kept (g : Attempt) : List Byte :=
  if g.accepted then g.bytes.take 1 ++ g.bytes.drop 2 else g.bytes

/-- A POLL of this case calls `RESET_RX()`: the six errors (R109). -/
def PollCase.isError : PollCase → Bool
  | .prologueTimeout | .prologueCorrupt | .prologueOverrun | .bodyTimeout | .checksumMismatch | .bodyOverrun => true
  | .disabled | .idle | .firstByte | .p2Empty | .p2Wait | .accept | .bodyEmpty | .bodyWait | .ready => false

/-- What a step does to the attempt: a stored byte joins it, an accept marks it, each `RESET_RX()` (R21: BEGIN,
ACKPKT, every NAK) starts a fresh one. -/
def Attempt.after (g : Attempt) (i : Instr) (s : State) : Attempt :=
  match i with
  | .rx b =>
    if s.en = false ∨ s.cnt = 256#9 then g
    else { g with bytes := g.bytes ++ [b], firstAt := if s.cnt = 0#9 then some s.now else g.firstAt }
  | .beginCmd => if s.txq = [] then .fresh else g
  | .ackpkt => if s.txq = [] ∧ s.en = true then .fresh else g
  | .poll =>
    if s.txq = [] then
      if (s.pollCase s.settings.params).isError then .fresh
      else if s.pollCase s.settings.params = .accept then { g with accepted := true }
      else g
    else g
  | .rsvd => g
  | .txByte => g
  | .read _ => g
  | .tick _ => g

/-- The buffer holds exactly the attempt `g` (R25, R26). -/
structure State.Resident (s : State) (g : Attempt) : Prop where
  /-- `CNT` counts the bytes the buffer keeps (R13, R26) -/
  count : s.cnt.toNat = g.kept.length
  /-- the cells hold them in order (R26) -/
  cells : ∀ i < g.kept.length, s.buf.read i = g.kept[i]?
  /-- R25 -/
  stamp : s.cnt ≠ 0#9 → g.firstAt = some s.ts
  /-- an accepted attempt has its two prologue bytes -/
  prologue : g.accepted = true → 2 ≤ g.bytes.length
  /-- BODY is exactly an accepted attempt (R12, R26: "At most one accept happens per attempt") -/
  inBody : s.rst = .body ↔ g.accepted = true

/-- R104: what has left and what is queued is whole control frames, one after another. -/
def State.FramedWire (s : State) : Prop :=
  ∃ ts : List Tag, (∀ t ∈ ts, t ∈ controlTags) ∧
    s.trace.wire ++ s.txq = ts.flatMap (controlFrame s.settings.params)

/-- The next input, if it is a clock edge, does not assert `rst_n`. -/
def State.NoResetNext (s : State) : Prop :=
  ∀ e commit rest, s.inputs = .edge e commit :: rest → e.rstN = true

/-- Every port word still to come fits its port. -/
def State.WordsFit (s : State) : Prop := ∀ w, Input.word w ∈ s.inputs → w.wf = true

end Sys2Proof.Machine
end

