-- ==== Sys2Proof/Certificates/Slice0/Obligations.lean ====
section
/-! DEFINITION. The statements for the provers. `BUF[i]` is `s.bufAt i`. The parameters are arguments: `Config.cksum` has
no body, and `TIMEOUT_MS` and the tags stand in `s.settings`, so each statement holds for every value of them. -/

open Sys2Proof Sys2Proof.Machine

/-! ## Encodings -/

/-- R47, R50 to R53: port words written out from the tables decode to the step kinds they stand for. The last four
clauses read bare words of the opcode table, which carry no port: that the port of a bare 8-bit word below 4 is the
command port is the model's choice (log 16; the same bits also fit the rows RX and READ). -/
def Obligations.DecodeReadsTheSpecWords : Prop :=
  decode ⟨.cmd, 0b00⟩ = .ok .beginCmd ∧ decode ⟨.cmd, 0b01⟩ = .ok .poll ∧
  decode ⟨.cmd, 0b10⟩ = .ok .ackpkt ∧ decode ⟨.cmd, 0b11⟩ = .ok .rsvd ∧
  decode ⟨.rx, 0xFA⟩ = .ok (.rx 0xFA#8) ∧ decode ⟨.tx, 0⟩ = .ok .txByte ∧
  decode ⟨.read, 0x02⟩ = .ok (.read 0x02#8) ∧ decode ⟨.clock, 0xFFFFFFFE⟩ = .ok (.tick 0xFFFFFFFE#32) ∧
  decodeTableWord 8 0b00 = some .beginCmd ∧ decodeTableWord 8 0b01 = some .poll ∧
  decodeTableWord 8 0b10 = some .ackpkt ∧ decodeTableWord 8 0b11 = some .rsvd

/-- A port word decodes to a step kind exactly when it is the word the encoder writes for it: no bit is dropped, and
each word has one meaning (R47, R50 to R53). -/
def Obligations.DecodeInvertsEncode : Prop :=
  ∀ (w : PortWord) (i : Instr), decode w = .ok i ↔ w = encode i

/-- R49: the response words: `NOPKT` is all zero, `PKT(v)` is `{1, len(v)}`. R54, R108: the codes of the receive states
and of the causes. -/
def Obligations.ResponseWordsAndCodes : Prop :=
  Response.nopkt.word = 0#9 ∧
  (∀ v : List Byte, v.length < 256 →
    (Response.pkt v).word.getLsbD 8 = true ∧ ((Response.pkt v).word.setWidth 8).toNat = v.length) ∧
  RecvState.p1.code = 0b00#2 ∧ RecvState.p2.code = 0b01#2 ∧ RecvState.body.code = 0b10#2 ∧
  [Cause.none, .prologueTimeout, .prologueCorrupt, .bodyTimeout, .checksumMismatch, .prologueOverrun,
    .bodyOverrun].map Cause.code = [0, 1, 2, 3, 4, 5, 6]

/-- R5, R62, R63, R102: the three control frames the block can send, for every value of the parameters; the instance
that `State.reset` starts takes the defaults: 20 ms and nine distinct tags. -/
def Obligations.ControlFramesAndDefaults : Prop :=
  (∀ c : Settings,
    controlFrame c.params .ready = [0x03#8, Config.cksum [c.tags.ready], c.tags.ready] ∧
    controlFrame c.params .nak = [0x03#8, Config.cksum [c.tags.nak], c.tags.nak] ∧
    controlFrame c.params .alive = [0x03#8, Config.cksum [c.tags.alive], c.tags.alive]) ∧
  State.reset.settings = Config.defaults ∧ Config.defaults.wf = true ∧ Config.defaults.timeoutMs = 20#32 ∧
  Tag.all.map Config.defaults.tags.byte = [0x01, 0x02, 0x03, 0x04, 0x05, 0x06, 0x07, 0x08, 0x09]

/-- R56: the prologue check, and its two other forms. -/
def Obligations.ComplementCheckForms : Prop :=
  ∀ s : State,
    (s.complementOk = true ↔ s.bufAt 1 = ~~~ s.bufAt 0) ∧
    (s.complementOk = true ↔ s.bufAt 0 ^^^ s.bufAt 1 = 0xFF#8) ∧
    (s.complementOk = true ↔ (s.bufAt 0).toNat + (s.bufAt 1).toNat = 255)

/-! ## The step function -/

/-- A step whose next input is a port word runs the instruction the word decodes to, on the state without that input;
and a table word placed by `withFetchWord` is the word the next step runs (the model's own schedule, logs 1 and 4). -/
def Obligations.StepRunsTheDecodedInstruction : Prop :=
  (∀ (s : State) (w : PortWord) (i : Instr) (rest : List Input), s.inputs = .word w :: rest →
    decode w = .ok i → step s = exec i { s with inputs := rest }) ∧
  (∀ (s : State) (nbits w : Nat) (i : Instr), decodeTableWord nbits w = some i →
    step (s.withFetchWord nbits w) = exec i s)

/-- With no input the machine idles; a new sink level is taken and nothing else changes (logs 1 and 3); a word with a
bit its port does not have is refused by name (the model's own rule, log 16). -/
def Obligations.StepWithoutAStepKind : Prop :=
  (∀ s : State, s.inputs = [] → step s = .next s) ∧
  (∀ (s : State) (b : Bool) (rest : List Input), s.inputs = .sink b :: rest →
    step s = .next { s with inputs := rest, sinkReady := b }) ∧
  (∀ (s : State) (w : PortWord) (rest : List Input), s.inputs = .word w :: rest →
    2 ^ w.port.width ≤ w.bits.toNat → step s = .refused (.badPortWord (.tooWide w.port)))

/-- R2, R41: an execution is its steps, one after another: a schedule of port words runs as the meanings of its
instructions in that order. -/
def Obligations.ScheduleRunsItsInstructions : Prop :=
  ∀ (is : List Instr) (s : State) (rest : List Input),
    s.inputs = is.map (fun i => Input.word (encode i)) ++ rest →
    core.run is.length s = execAll is { s with inputs := rest }

/-- R8: no step of this block faults, and with words that fit their ports none is refused, however long the run; and the
instance keeps its parameters throughout (R5; R63: the tags are "stable"). -/
def Obligations.WellFormedInputsNeverStop : Prop :=
  ∀ (n : Nat) (s : State), s.WordsFit → ∃ t : State, core.run n s = .next t ∧ t.settings = s.settings

/-! ## Reset -/

/-- R126: the registers the spec gives a reset value, and that nothing is in progress at the ports, for every value of
the parameters. -/
def Obligations.ResetRegisters : Prop :=
  ∀ c : Settings, (State.resetWith c).en = false ∧ (State.resetWith c).rst = .p1 ∧ (State.resetWith c).cnt = 0#9 ∧
    (State.resetWith c).txq = [] ∧ (State.resetWith c).settings = c ∧
    (State.resetWith c).port = { inFlight := none, held := [], rspWait := none, rspOut := none }

/-- R126, R127: an edge with `rst_n = 0` sets `EN`, `RST`, `CNT` and `TXQ`, keeps `TS` and `BUF`, drops the received
byte, abandons the command in progress without a response, discards the held bytes, sends nothing, and leaves
`cmd_ready`, `rsp_valid` and `tx_valid` 0. -/
def Obligations.ResetEdge : Prop :=
  ∀ (s : State) (e : Edge) (commit : Bool) (rest : List Input), s.inputs = .edge e commit :: rest →
    e.rstN = false → ∃ t : State, step s = .next t ∧
      t.en = false ∧ t.rst = .p1 ∧ t.cnt = 0#9 ∧ t.txq = [] ∧ t.ts = s.ts ∧ (∀ i, t.bufAt i = s.bufAt i) ∧
      t.trace = s.trace ∧ t.settings = s.settings ∧
      t.port = { inFlight := none, held := [], rspWait := none, rspOut := none } ∧
      (t.outputs false).cmdReady = false ∧ (t.outputs false).rsp = none ∧ (t.outputs false).tx = none

/-! ## The invariant -/

/-- What every step keeps holds right after reset, with the defaults and with any other distinct tags: the invariant,
whole frames on the wire and in the queue (none), and a buffer that holds a fresh attempt (R26, R63, R104). -/
def Obligations.InvAtReset : Prop :=
  (State.reset.Inv ∧ State.reset.FramedWire ∧ State.reset.Resident .fresh) ∧
  ∀ c : Settings, c.wf = true →
    (State.resetWith c).Inv ∧ (State.resetWith c).FramedWire ∧ (State.resetWith c).Resident .fresh

/-- R23, R24, R27, R28, R63 and the buffer's canonical form hold again after any step of any kind. -/
def Obligations.StepKeepsInv : Prop :=
  ∀ s t : State, s.Inv → step s = .next t → t.Inv

/-! ## RX_BYTE -/

/-- R68, R69: an enabled receiver with room stores the byte at `CNT[7:0]`, counts it, captures `TS` only from
`CNT = 0`, and changes nothing else, in every state of `RST` and `TXQ`. -/
def Obligations.RxStoresTheByte : Prop :=
  ∀ (s : State) (b : Byte), s.en = true → s.cnt ≠ 256#9 → ∃ t : State, exec (.rx b) s = .next t ∧
    t.cnt = s.cnt + 1#9 ∧ t.ts = (if s.cnt = 0#9 then s.now else s.ts) ∧
    (∀ a : BitVec 8, t.bufAt a.toNat = if a = s.cnt.setWidth 8 then b else s.bufAt a.toNat) ∧
    t = { s with cnt := t.cnt, ts := t.ts, buf := t.buf }

/-- R71: "When `EN = 0` … every RX_BYTE is discarded with no state change". -/
def Obligations.RxDroppedWhileDisabled : Prop :=
  ∀ (s : State) (b : Byte), s.en = false → exec (.rx b) s = .next s

/-- R70: at `CNT = 256` the byte is discarded, and the next enabled POLL outside P1 reports the overrun with a NAK. -/
def Obligations.RxDroppedWhileFull : Prop :=
  ∀ (s : State) (b : Byte), s.cnt = 256#9 → exec (.rx b) s = .next s ∧
    (s.en = true → s.txq = [] →
      (s.rst = .p2 → exec .poll s = .next (s.recover s.settings.params .prologueOverrun)) ∧
      (s.rst = .body → exec .poll s = .next (s.recover s.settings.params .bodyOverrun)))

/-- R72, R100: RX_BYTE neither reads nor writes `RST`, and never touches `TXQ`: with another `RST` and another `TXQ` it
does the same to the rest. -/
def Obligations.RxIgnoresRstAndTxq : Prop :=
  ∀ (s t : State) (b : Byte) (q : RecvState) (xs : List Byte), exec (.rx b) s = .next t →
    t.rst = s.rst ∧ t.txq = s.txq ∧
    exec (.rx b) { s with rst := q, txq := xs } = .next { t with rst := q, txq := xs }

/-! ## BEGIN, ACKPKT, RSVD, READ, TX_BYTE, TICK -/

/-- R93, R94: BEGIN, whatever `EN` was: `EN <- 1`, full reset, the ALIVE frame queued, NOPKT; nothing else changes. -/
def Obligations.BeginCompletes : Prop :=
  ∀ s : State, s.txq = [] → exec .beginCmd s = .next { s with
    en := true, cnt := 0#9, rst := .p1, txq := [0x03#8, Config.cksum [s.settings.tags.alive], s.settings.tags.alive]
    trace := s.trace.answered .nopkt }

/-- R95, R96: ACKPKT with `EN = 1`, in every receive state: full reset, the READY frame queued, NOPKT; nothing else
changes. -/
def Obligations.AckpktCompletes : Prop :=
  ∀ s : State, s.txq = [] → s.en = true → exec .ackpkt s = .next { s with
    cnt := 0#9, rst := .p1, txq := [0x03#8, Config.cksum [s.settings.tags.ready], s.settings.tags.ready]
    trace := s.trace.answered .nopkt }

/-- R97: ACKPKT with `EN = 0` changes no register, queues no frame, and returns NOPKT. -/
def Obligations.AckpktWhileDisabled : Prop :=
  ∀ s : State, s.txq = [] → s.en = false →
    exec .ackpkt s = .next { s with trace := s.trace.answered .nopkt }

/-- R98: the reserved command, code `0b11`, completes as a no-op with response NOPKT, for both values of `EN`. -/
def Obligations.RsvdCompletes : Prop :=
  commandOf 0b11#2 = .rsvd ∧ ∀ s : State, s.txq = [] → exec .rsvd s = .next { s with trace := s.trace.answered .nopkt }

/-- R8, R92: while `TXQ` holds bytes none of the four commands is enabled. The spec says that such a step cannot occur;
that it answers the same state, changing and answering nothing, is the model's choice (log 2). -/
def Obligations.CommandsHeldWhileFrameQueued : Prop :=
  ∀ (s : State) (i : Instr), s.txq ≠ [] → i ∈ [Instr.beginCmd, .poll, .ackpkt, .rsvd] → exec i s = .next s

/-- R99: READ is enabled in every state, shows `BUF[i]` on `rd_data`, and changes nothing else. -/
def Obligations.ReadCompletes : Prop :=
  ∀ (s : State) (a : BitVec 8), exec (.read a) s = .next { s with rdData := s.bufAt a.toNat }

/-- R103: TX_BYTE, enabled iff `TXQ` is non-empty and the sink ready, sends the head of `TXQ` and changes nothing else.
Second clause: where it is not enabled the spec says that the step cannot occur (R8); that it answers the same state is
the model's choice (log 2). -/
def Obligations.TxByteCompletes : Prop :=
  ∀ s : State,
    (∀ b rest, s.txq = b :: rest → s.sinkReady = true →
      exec .txByte s = .next { s with txq := rest, trace := { s.trace with wire := s.trace.wire ++ [b] } }) ∧
    (s.txq = [] ∨ s.sinkReady = false → exec .txByte s = .next s)

/-- R117: TICK advances `NOW` mod 2^32 and changes nothing else, and no other step changes `NOW`. -/
def Obligations.TickCompletes : Prop :=
  (∀ (s : State) (d : Time), exec (.tick d) s = .next { s with now := s.now + d } ∧
    (s.now + d).toNat = (s.now.toNat + d.toNat) % 2 ^ 32) ∧
  (∀ (i : Instr) (s t : State), exec i s = .next t → t.now ≠ s.now → ∃ d, i = .tick d)

/-! ## POLL, case by case -/

/-- R74: POLL with `EN = 0` writes no register, queues no frame, returns NOPKT, cause 0. -/
def Obligations.PollWhileDisabled : Prop :=
  ∀ s : State, s.txq = [] → s.en = false →
    exec .poll s = .next { s with trace := s.trace.polled .none .nopkt }

/-- R75: P1 with `CNT = 0` is idle, whatever `NOW` is. -/
def Obligations.PollIdle : Prop :=
  ∀ s : State, s.txq = [] → s.en = true → s.rst = .p1 → s.cnt = 0#9 →
    exec .poll s = .next { s with trace := s.trace.polled .none .nopkt }

/-- R76: P1 with `CNT >= 1` moves to P2 and does nothing more, even if `CNT >= 2` or the timeout has passed. -/
def Obligations.PollFirstByte : Prop :=
  ∀ s : State, s.txq = [] → s.en = true → s.rst = .p1 → 1#9 ≤ s.cnt →
    exec .poll s = .next { s with rst := .p2, trace := s.trace.polled .none .nopkt }

/-- R77, R83: P2 or BODY with `CNT = 0`, which no run reaches: `RST <- P1`, NOPKT, no frame, cause 0. -/
def Obligations.PollEmptyOutsideP1 : Prop :=
  ∀ s : State, s.txq = [] → s.en = true → s.rst = .p2 ∨ s.rst = .body → s.cnt = 0#9 →
    exec .poll s = .next { s with rst := .p1, trace := s.trace.polled .none .nopkt }

/-- R109: the one recovery: `CNT <- 0`, `RST <- P1`, the NAK frame queued, the cause noted, NOPKT. -/
def Obligations.RecoverIsResetAndNak : Prop :=
  ∀ (s : State) (c : Cause), s.txq = [] → s.recover s.settings.params c = { s with
    cnt := 0#9, rst := .p1, txq := [0x03#8, Config.cksum [s.settings.tags.nak], s.settings.tags.nak]
    trace := s.trace.polled c .nopkt }

/-- R78, R79: P2 with `CNT = 1` waits while `elapsed <= TIMEOUT_MS` and raises E1 beyond. -/
def Obligations.PollPrologueWaitOrTimeout : Prop :=
  ∀ s : State, s.txq = [] → s.en = true → s.rst = .p2 → s.cnt = 1#9 →
    (s.now - s.ts ≤ s.settings.timeoutMs → exec .poll s = .next { s with trace := s.trace.polled .none .nopkt }) ∧
    (s.settings.timeoutMs < s.now - s.ts → exec .poll s = .next (s.recover s.settings.params .prologueTimeout))

/-- R80: the prologue accept: `CNT <- 1`, `RST <- BODY`, the READY frame queued, NOPKT, cause 0; no timeout is checked,
and every declared length is accepted. -/
def Obligations.PollPrologueAccept : Prop :=
  ∀ s : State, s.txq = [] → s.en = true → s.rst = .p2 → s.cnt = 2#9 → s.bufAt 1 = ~~~ s.bufAt 0 →
    exec .poll s = .next { s with
      cnt := 1#9, rst := .body, txq := [0x03#8, Config.cksum [s.settings.tags.ready], s.settings.tags.ready]
      trace := s.trace.polled .none .nopkt }

/-- R81, R82: a corrupt second byte raises E2, three or more bytes raise E5 without the complement check. -/
def Obligations.PollPrologueErrors : Prop :=
  ∀ s : State, s.txq = [] → s.en = true → s.rst = .p2 →
    (s.cnt = 2#9 → s.bufAt 1 ≠ ~~~ s.bufAt 0 →
      exec .poll s = .next (s.recover s.settings.params .prologueCorrupt)) ∧
    (3#9 ≤ s.cnt → exec .poll s = .next (s.recover s.settings.params .prologueOverrun))

/-- R84, R85: an incomplete body (`CNT = 1` for every `L`, or `2 <= CNT < L`) waits while `elapsed <= TIMEOUT_MS` and
raises E3 beyond. -/
def Obligations.PollBodyWaitOrTimeout : Prop :=
  ∀ s : State, s.txq = [] → s.en = true → s.rst = .body →
    s.cnt = 1#9 ∨ (2#9 ≤ s.cnt ∧ s.cnt < (s.bufAt 0).setWidth 9) →
    (s.now - s.ts ≤ s.settings.timeoutMs → exec .poll s = .next { s with trace := s.trace.polled .none .nopkt }) ∧
    (s.settings.timeoutMs < s.now - s.ts → exec .poll s = .next (s.recover s.settings.params .bodyTimeout))

/-- R86, R87: a complete body of `L >= 2` bytes answers `PKT(BUF[0..L-1])`, the word `{1, L}`, and writes no register
where `CKSUM(BUF[2..L-1]) = BUF[1]`, and raises E4 where not; no timeout is checked. -/
def Obligations.PollCompleteBody : Prop :=
  ∀ s : State, s.txq = [] → s.en = true → s.rst = .body → 2#9 ≤ s.cnt → s.cnt = (s.bufAt 0).setWidth 9 →
    let len := (s.bufAt 0).toNat
    let good := Config.cksum ((List.range (len - 2)).map fun i => s.bufAt (2 + i)) = s.bufAt 1
    (good → exec .poll s = .next { s with
      trace := s.trace.polled .none (.pkt ((List.range len).map fun i => s.bufAt i)) }) ∧
    (Response.pkt ((List.range len).map fun i => s.bufAt i)).word = 1#1 ++ s.bufAt 0 ∧
    (¬ good → exec .poll s = .next (s.recover s.settings.params .checksumMismatch))

/-- R88: more bytes than declared raise E6, and no checksum is computed. -/
def Obligations.PollBodyOverrun : Prop :=
  ∀ s : State, s.txq = [] → s.en = true → s.rst = .body → 2#9 ≤ s.cnt → (s.bufAt 0).setWidth 9 < s.cnt →
    exec .poll s = .next (s.recover s.settings.params .bodyOverrun)

/-! ## Whole-machine rules -/

/-- The register table of 10_state.md section 2: which steps may change which register, and to what `EN` changes; the
observations of R20 likewise, and the parameters stay (R63: "stable"). Three clauses are the model's choices, not the
spec's: that `rd_data` keeps its value until the next READ (log 11), that a step leaves the ports' own state alone (log
23), and that it leaves the model's own field `inputs` alone (log 1). -/
def Obligations.OnlyTheNamedStepsWrite : Prop :=
  ∀ (i : Instr) (s t : State), exec i s = .next t →
    (t.en ≠ s.en → i = .beginCmd ∧ t.en = true) ∧
    (t.rst ≠ s.rst → i ∈ [Instr.poll, .beginCmd, .ackpkt]) ∧
    (t.cnt ≠ s.cnt → i ∈ [Instr.poll, .beginCmd, .ackpkt] ∨ ∃ b, i = .rx b) ∧
    (t.ts ≠ s.ts → (∃ b, i = .rx b) ∧ s.en = true ∧ s.cnt = 0#9 ∧ t.ts = s.now) ∧
    (t.txq ≠ s.txq → i ∈ [Instr.poll, .beginCmd, .ackpkt, .txByte]) ∧
    (t.rdData ≠ s.rdData → ∃ a, i = .read a) ∧
    (t.trace.wire ≠ s.trace.wire → i = .txByte) ∧
    (t.trace.responses ≠ s.trace.responses → i ∈ [Instr.poll, .beginCmd, .ackpkt, .rsvd]) ∧
    (t.trace.causes ≠ s.trace.causes → i = .poll) ∧
    t.sinkReady = s.sinkReady ∧ t.port = s.port ∧ t.settings = s.settings ∧ t.inputs = s.inputs

/-- R33: only RX_BYTE writes `BUF`: one byte, at `CNT[7:0]`, and only when `EN = 1` and `CNT < 256`. Every other cell
reads as before, after every step. -/
def Obligations.OnlyRxWritesTheBuffer : Prop :=
  ∀ (i : Instr) (s t : State), s.cnt.toNat ≤ 256 → exec i s = .next t →
    (∀ a : BitVec 8, a ≠ s.cnt.setWidth 8 → t.bufAt a.toNat = s.bufAt a.toNat) ∧
    (∀ a : BitVec 8, t.bufAt a.toNat ≠ s.bufAt a.toNat →
      ∃ b, i = .rx b ∧ s.en = true ∧ s.cnt < 256#9 ∧ t.bufAt a.toNat = b)

/-- R89: outside P2 with `CNT = 1` and BODY while incomplete no timeout is checked: POLL does the same for every other
`NOW` and `TS`. -/
def Obligations.TimeIrrelevantWhereNotChecked : Prop :=
  ∀ (s t : State) (n z : Time), ¬ (s.rst = .p2 ∧ s.cnt = 1#9) →
    ¬ (s.rst = .body ∧ (s.cnt = 1#9 ∨ s.cnt < (s.bufAt 0).setWidth 9)) →
    exec .poll s = .next t → exec .poll { s with now := n, ts := z } = .next { t with now := n, ts := z }

/-- R118, R119, R121: a POLL notes a timeout only where the attempt is incomplete and more than `TIMEOUT_MS` have
elapsed, counted mod 2^32 from `TS`. -/
def Obligations.TimeoutOnlyAfterTheDeadline : Prop :=
  ∀ (s t : State) (c : Cause), exec .poll s = .next t → t.trace.causes = s.trace.causes ++ [c] →
    (c = .prologueTimeout → s.rst = .p2 ∧ s.cnt = 1#9 ∧
      s.settings.timeoutMs.toNat < (s.now.toNat + (2 ^ 32 - s.ts.toNat)) % 2 ^ 32) ∧
    (c = .bodyTimeout → s.rst = .body ∧ (s.cnt = 1#9 ∨ s.cnt < (s.bufAt 0).setWidth 9) ∧
      s.settings.timeoutMs.toNat < (s.now.toNat + (2 ^ 32 - s.ts.toNat)) % 2 ^ 32)

/-- R134: from P1, at least two POLLs are needed to accept or reject a prologue and at least three to report a packet,
whatever other steps fall between them (one that is not enabled answers the same state, the model's choice, log 2). -/
def Obligations.PollsNeededPerAttempt : Prop :=
  ∀ (is : List Instr) (s t : State), s.rst = .p1 → execAll is s = .next t →
    (is.count .poll ≤ 1 → t.rst ≠ .body ∧ ∀ c ∈ t.trace.causes.drop s.trace.causes.length, c = .none) ∧
    (is.count .poll ≤ 2 → ∀ r ∈ t.trace.responses.drop s.trace.responses.length, r = .nopkt)

/-- R49, R86: a POLL that answers `PKT(v)` has found an enabled block in BODY with `CNT = L >= 2`, and `v` has `L` bytes,
starts with `L`, and carries a matching checksum. -/
def Obligations.PacketResponseIsValidated : Prop :=
  ∀ (s t : State) (v : List Byte), exec .poll s = .next t →
    t.trace.responses = s.trace.responses ++ [.pkt v] →
    s.en = true ∧ s.rst = .body ∧ s.cnt.toNat = v.length ∧ 2 ≤ v.length ∧
    v[0]? = some (BitVec.ofNat 8 v.length) ∧ v[1]? = some (Config.cksum (v.drop 2))

/-- R90: after a POLL that answered `PKT(v)`, and any steps but RX_BYTE, ACKPKT and BEGIN, the next POLL answers the
same `PKT(v)` and finds the same `RST` and `CNT`; if an RX_BYTE then intervenes, R88 applies instead (a step that is not
enabled answers the same state, the model's choice, log 2). -/
def Obligations.ReadinessIsIdempotent : Prop :=
  ∀ (s t u : State) (v : List Byte) (is : List Instr), exec .poll s = .next t →
    t.trace.responses = s.trace.responses ++ [.pkt v] →
    (∀ i ∈ is, i ≠ .ackpkt ∧ i ≠ .beginCmd ∧ ∀ b, i ≠ .rx b) → execAll is t = .next u →
    (u.rst = s.rst ∧ u.cnt = s.cnt ∧ ∃ w : State, exec .poll u = .next w ∧
      w.trace.responses = u.trace.responses ++ [.pkt v]) ∧
    (∀ b : Byte, ∃ w : State, exec (.rx b) u = .next w ∧
      exec .poll w = .next (w.recover w.settings.params .bodyOverrun))

/-- R46: after a POLL that answered `PKT(v)`, READ below `L` returns the byte of `v` until a `RESET_RX()` is followed by
an RX_BYTE: through any bytes before the reset (`pre`), and any steps but RX_BYTE after it (`post`); a step that is not
enabled answers the same state, the model's choice, log 2. -/
def Obligations.PacketViewStaysReadable : Prop :=
  ∀ (s t u : State) (v : List Byte) (pre post : List Instr) (a : BitVec 8), exec .poll s = .next t →
    t.trace.responses = s.trace.responses ++ [.pkt v] →
    (∀ i ∈ pre, i ≠ .ackpkt ∧ i ≠ .beginCmd ∧ i ≠ .poll) → (∀ i ∈ post, ∀ b, i ≠ .rx b) →
    execAll (pre ++ post) t = .next u → a.toNat < v.length →
    ∃ w : State, exec (.read a) u = .next w ∧ v[a.toNat]? = some w.rdData

/-- R110: the cause is visible nowhere: with another cause trace a step does the same to everything else, and the
output ports do not depend on it. -/
def Obligations.CauseTraceIsInvisible : Prop :=
  ∀ (i : Instr) (s t : State) (cs : List Cause) (rstN : Bool), exec i s = .next t →
    (∃ cs' : List Cause, exec i { s with trace := { s.trace with causes := cs } }
      = .next { t with trace := { t.trace with causes := cs' } }) ∧
    State.outputs { s with trace := { s.trace with causes := cs } } rstN = s.outputs rstN

/-- R106, R139: while the sink is not ready and `TXQ` holds bytes, nothing is sent, no command runs and nothing is
answered, through any steps. That the commands and the TX_BYTE steps among them, which are not enabled (R92, R103),
answer the same state is the model's choice (log 2). -/
def Obligations.SinkStallHangs : Prop :=
  ∀ (is : List Instr) (s t : State), s.txq ≠ [] → s.sinkReady = false → execAll is s = .next t →
    t.txq = s.txq ∧ t.sinkReady = false ∧ t.trace = s.trace ∧ t.en = s.en ∧ t.rst = s.rst

/-- R28, R92, R103: `TXQ` holds at most three bytes, so with the sink ready three TX_BYTE steps send all of it, in
order, and change nothing else, and commands are enabled again. Where `TXQ` holds fewer than three, the surplus TX_BYTE
steps are not enabled (R8, R103), and that they answer the same state is the model's choice (log 2). -/
def Obligations.ThreeTxBytesDrain : Prop :=
  ∀ s : State, s.Inv → s.sinkReady = true → execAll [.txByte, .txByte, .txByte] s = .next { s with
    txq := [], trace := { s.trace with wire := s.trace.wire ++ s.txq } }

/-- R104: the wire trace with the queued rest is whole control frames after every step, until `rst_n` discards a
partly sent one (R130). -/
def Obligations.WireStaysWholeFrames : Prop :=
  ∀ s t : State, s.FramedWire → s.NoResetNext → step s = .next t → t.FramedWire

/-- R25, R26: after every step the buffer holds exactly the bytes of one attempt, without the complement byte after an
accept, `TS` is the time of its first byte, and an attempt is accepted at most once. -/
def Obligations.OneAttemptStaysResident : Prop :=
  ∀ (i : Instr) (s t : State) (g : Attempt), s.Inv → s.Resident g → exec i s = .next t →
    t.Resident (g.after i s) ∧ (s.pollCase s.settings.params = .accept → g.accepted = false)

/-! ## Properties of whole attempts (95_test_vectors.md L1) -/

/-- L1.3, R58: a packet of any length 3..255, type and payload, sent by the peer's sequence, is handed over exactly, with
one ACK and no NAK, however long the bytes take as long as no POLL falls between (R136), for every `CKSUM`. -/
def Obligations.RoundTripDeliversThePacket : Prop :=
  ∀ (s : State) (len ty : Byte) (payload : List Byte) (d₁ d₂ d₃ : Time), s.en = true → s.rst = .p1 →
    s.cnt = 0#9 → s.txq = [] → s.sinkReady = true → len.toNat = payload.length + 3 →
    let c := Config.cksum (ty :: payload)
    ∃ t : State,
      execAll ([.rx len, .tick d₁, .rx (~~~ len), .poll, .poll, .txByte, .txByte, .txByte, .tick d₂, .rx c, .rx ty]
        ++ payload.map .rx ++ [.tick d₃, .poll]) s = .next t ∧
      t.trace.responses = s.trace.responses ++ [.nopkt, .nopkt, .pkt ([len, c, ty] ++ payload)] ∧
      t.trace.wire = s.trace.wire ++ [0x03#8, Config.cksum [s.settings.tags.ready], s.settings.tags.ready] ∧
      t.trace.causes = s.trace.causes ++ [.none, .none, .none] ∧
      t.rst = .body ∧ t.cnt = len.setWidth 9 ∧ t.txq = []

/-- L1.4, R81: a prologue whose second byte is not the complement never gives a ready packet, queues one NAK, and
leaves the block in P1 with an empty buffer. -/
def Obligations.CorruptPrologueIsNakked : Prop :=
  ∀ (s : State) (x y : Byte) (d : Time), s.en = true → s.rst = .p1 → s.cnt = 0#9 → s.txq = [] → y ≠ ~~~ x →
    ∃ t : State, execAll [.rx x, .tick d, .rx y, .poll, .poll] s = .next t ∧
      t.rst = .p1 ∧ t.cnt = 0#9 ∧ t.txq = [0x03#8, Config.cksum [s.settings.tags.nak], s.settings.tags.nak] ∧
      t.trace.responses = s.trace.responses ++ [.nopkt, .nopkt] ∧
      t.trace.causes = s.trace.causes ++ [.none, .prologueCorrupt] ∧ t.trace.wire = s.trace.wire

/-- L1.5, R79, R118: a lone first byte, seen by one POLL, is NAKed by the POLL `d` ms later exactly if `d > TIMEOUT_MS`,
also when the clock wraps meanwhile. -/
def Obligations.PrologueTimeoutFromTheFirstByte : Prop :=
  ∀ (s : State) (x : Byte) (d : Time), s.en = true → s.rst = .p1 → s.cnt = 0#9 → s.txq = [] →
    ∃ t : State, execAll [.rx x, .poll, .tick d, .poll] s = .next t ∧
      t.trace.responses = s.trace.responses ++ [.nopkt, .nopkt] ∧
      (s.settings.timeoutMs < d → t.trace.causes = s.trace.causes ++ [.none, .prologueTimeout] ∧ t.rst = .p1 ∧
        t.cnt = 0#9 ∧ t.txq = [0x03#8, Config.cksum [s.settings.tags.nak], s.settings.tags.nak]) ∧
      (d ≤ s.settings.timeoutMs → t.trace.causes = s.trace.causes ++ [.none, .none] ∧ t.rst = .p2 ∧
        t.cnt = 1#9 ∧ t.txq = [])

/-- L1.6, R120: more body bytes do not extend the deadline: after any of them that leave the body incomplete, the POLL
raises E3 exactly if more than `TIMEOUT_MS` have elapsed since the attempt's first byte. -/
def Obligations.BodyDeadlineIsNotExtended : Prop :=
  ∀ (s : State) (bs : List Byte), s.en = true → s.rst = .body → s.txq = [] → s.cnt ≠ 0#9 →
    s.cnt.toNat + bs.length < (s.bufAt 0).toNat →
    ∃ t : State, execAll (bs.map .rx ++ [.poll]) s = .next t ∧ t.ts = s.ts ∧
      t.trace.causes = s.trace.causes ++ [if s.settings.timeoutMs < s.now - s.ts then .bodyTimeout else .none]

/-! ## The ports -/

/-- R31: what an edge with `rst_n = 1` does with its input ports. At every such edge `NOW` becomes `now_ms`, the sink's
level becomes `tx_ready`, and `rd_data` shows `BUF[rd_addr]` (as it was before the edge, the model's choice, log 20).
Where no command is in flight, idle or draining, the queue's head leaves if `tx_ready`, then a received byte runs one
RX_BYTE with that `NOW`, and nothing else changes but the port side; the byte of an edge that accepts a command is among
these (the model's choice, log 21). -/
def Obligations.EdgeTakesItsInputPorts : Prop :=
  ∀ (s : State) (e : Edge) (commit : Bool) (rest : List Input), s.inputs = .edge e commit :: rest → e.rstN = true →
    ∃ t : State, step s = .next t ∧ t.inputs = rest ∧ t.now = e.nowMs ∧ t.sinkReady = e.txReady ∧
      t.rdData = s.bufAt e.rdAddr.toNat ∧
      (s.port.inFlight = none →
        let u : State := { s with
          inputs := rest, now := e.nowMs, sinkReady := e.txReady, rdData := s.bufAt e.rdAddr.toNat
          txq := if e.txReady then s.txq.tail else s.txq
          trace := { s.trace with wire := s.trace.wire ++ if e.txReady then s.txq.head?.toList else [] } }
        (e.rx = none → t = { u with port := t.port }) ∧
        (∀ b, e.rx = some b → ∃ v : State, exec (.rx b) u = .next v ∧ t = { v with port := t.port }) ∧
        t.port.held = s.port.held ∧ (e.cmd = none → t.port.inFlight = none))

/-- R30: a command is accepted at an edge where `cmd_valid` and `cmd_ready` are 1, and then `cmd_ready` is 0; where
`cmd_ready` is 0 the offer is not accepted. -/
def Obligations.CommandAcceptance : Prop :=
  ∀ (s : State) (e : Edge) (commit : Bool) (rest : List Input) (op : CmdOp),
    s.inputs = .edge e commit :: rest → e.rstN = true → e.cmd = some op →
    ∃ t : State, step s = .next t ∧
      ((s.outputs true).cmdReady = true →
        t.port.inFlight = some op ∧ (t.outputs true).cmdReady = false ∧ t.trace.responses = s.trace.responses) ∧
      ((s.outputs true).cmdReady = false → t.port.inFlight = s.port.inFlight ∨ t.port.inFlight = none)

/-- R43: while a command is in flight and does not commit, an arriving byte is held, in order, and the registers do
not see it. -/
def Obligations.BytesHeldDuringACommand : Prop :=
  ∀ (s : State) (e : Edge) (rest : List Input) (op : CmdOp), s.inputs = .edge e false :: rest → e.rstN = true →
    s.port.inFlight = some op → ∃ t : State, step s = .next t ∧ t.port.inFlight = some op ∧
      t.port.held = s.port.held ++ e.rx.toList ∧ t.cnt = s.cnt ∧ t.ts = s.ts ∧ t.rst = s.rst ∧ t.en = s.en ∧
      ∀ i, t.bufAt i = s.bufAt i

/-- R42, R43: at the commit edge the command's step comes first, with `NOW` sampled there, and then the held bytes and
the edge's own byte are appended in order behind what the command left; none is lost while there is room (that they
are all appended at this edge is the model's choice, log 19). -/
def Obligations.CommitThenHeldBytes : Prop :=
  ∀ (s : State) (e : Edge) (rest : List Input) (op : CmdOp), s.inputs = .edge e true :: rest → e.rstN = true →
    s.port.inFlight = some op → s.txq = [] →
    ∃ u t : State,
      exec (commandOf op) { s with
        inputs := rest, sinkReady := e.txReady, rdData := s.bufAt e.rdAddr.toNat, now := e.nowMs } = .next u ∧
      step s = .next t ∧ t.rst = u.rst ∧ t.en = u.en ∧ t.txq = u.txq ∧ t.trace = u.trace ∧
      t.port = { inFlight := none, held := [], rspWait := u.trace.responses.getLast?, rspOut := none } ∧
      let bytes := s.port.held ++ e.rx.toList
      (u.en = true → u.cnt.toNat + bytes.length ≤ 256 →
        t.cnt.toNat = u.cnt.toNat + bytes.length ∧
        (∀ k < bytes.length, t.buf.read (u.cnt.toNat + k) = bytes[k]?) ∧
        (∀ k < u.cnt.toNat, t.buf.read k = u.buf.read k) ∧
        (bytes ≠ [] → u.cnt = 0#9 → t.ts = e.nowMs))

/-- R21, R42: a byte that arrives in the cycle of a `RESET_RX()`, whichever its caller (BEGIN, ACKPKT with `EN = 1`, a
POLL that raises E1 to E6 at this edge's `NOW`), belongs to the new attempt, which captures `TS` at this edge; where no
byte is held it is the attempt's first byte. Bytes held since the acceptance stand before it, as long as all fit (that
they are appended at this very edge is the model's choice, log 19). -/
def Obligations.ByteInTheResetCycleStartsTheAttempt : Prop :=
  ∀ (s : State) (e : Edge) (rest : List Input) (op : CmdOp) (b : Byte), s.inputs = .edge e true :: rest →
    e.rstN = true → s.port.inFlight = some op → s.txq = [] → e.rx = some b → s.port.held.length < 256 →
    op = 0b00#2 ∨ (op = 0b10#2 ∧ s.en = true) ∨
      (op = 0b01#2 ∧ (State.pollCase { s with now := e.nowMs } s.settings.params).isError = true) →
    ∃ t : State, step s = .next t ∧ t.en = true ∧ t.rst = .p1 ∧ t.ts = e.nowMs ∧
      t.cnt.toNat = s.port.held.length + 1 ∧
      (∀ k ≤ s.port.held.length, t.buf.read k = (s.port.held ++ [b])[k]?) ∧
      (s.port.held = [] → t.cnt = 1#9 ∧ t.bufAt 0 = b)

/-- R30: a committed command completes at the first edge at which `TXQ` is empty: `rsp_valid` carries its response for
one cycle, and `cmd_ready` is 1 in that same cycle. Before that, no response and no `cmd_ready`. Two points are the
model's choice (log 22): the edge that takes the last queued byte does not yet complete the command, since `TXQ` is
looked at before that byte leaves; and the pulse stands in the cycle after the completing edge. -/
def Obligations.CommandCompletion : Prop :=
  ∀ (s : State) (e e' : Edge) (c c' : Bool) (rest : List Input) (r : Response),
    s.inputs = .edge e c :: .edge e' c' :: rest → e.rstN = true → e'.rstN = true →
    s.port.rspWait = some r → s.port.inFlight = none →
    ∃ t u : State, step s = .next t ∧ step t = .next u ∧
      (s.txq = [] → (t.outputs true).rsp = some r.word ∧ (t.outputs true).cmdReady = true ∧
        (u.outputs true).rsp = none) ∧
      (s.txq ≠ [] → (t.outputs true).rsp = none ∧ (t.outputs true).cmdReady = false)

/-- R31, R103: an edge with `tx_valid = 1` sends one byte, the one on `tx_data`, exactly if `tx_ready = 1`. -/
def Obligations.TxEdge : Prop :=
  ∀ (s : State) (e : Edge) (commit : Bool) (rest : List Input) (b : Byte),
    s.inputs = .edge e commit :: rest → e.rstN = true → (s.outputs true).tx = some b →
    ∃ t : State, step s = .next t ∧
      (e.txReady = true → t.trace.wire = s.trace.wire ++ [b] ∧ t.txq = s.txq.tail) ∧
      (e.txReady = false → t.trace.wire = s.trace.wire ∧ t.txq = s.txq)
end

