-- ==== Sys2Proof/Laws/Decode.lean ====
section
/-! SUPPORT. What the decoder answers on a word that fits its port and on one that does not. -/

namespace Sys2Proof

/-- A word that does not fit is rejected by name. -/
theorem decode_error {w : PortWord} (h : w.wf = false) : decode w = .error (.tooWide w.port) := by
  simp [decode, h]

/-- Only a word that fits decodes. -/
theorem wf_of_decode {w : PortWord} {i : Instr} (h : decode w = .ok i) : w.wf = true := by
  unfold decode at h
  split at h
  · assumption
  · cases h

/-- A word that fits decodes. -/
theorem decode_total {w : PortWord} (h : w.wf = true) : ∃ i, decode w = .ok i := by
  simp [decode, h]

/-- The decoder port by port. -/
theorem decode_cmd {v : BitVec 32} (h : v.toNat < 4) : decode ⟨.cmd, v⟩ = .ok (commandOf (v.setWidth 2)) := by
  simp [decode, PortWord.wf, Port.width, h]

theorem decode_rx {v : BitVec 32} (h : v.toNat < 256) : decode ⟨.rx, v⟩ = .ok (.rx (v.setWidth 8)) := by
  simp [decode, PortWord.wf, Port.width, h]

theorem decode_tx : decode ⟨.tx, 0⟩ = .ok .txByte := rfl

theorem decode_read {v : BitVec 32} (h : v.toNat < 256) : decode ⟨.read, v⟩ = .ok (.read (v.setWidth 8)) := by
  simp [decode, PortWord.wf, Port.width, h]

theorem decode_clock (v : BitVec 32) : decode ⟨.clock, v⟩ = .ok (.tick v) := by
  have : v.toNat < 4294967296 := v.isLt
  simp [decode, PortWord.wf, Port.width, this]

end Sys2Proof
end

