-- ==== Sys2Proof/Laws/Memory.lean ====
section
/-! SUPPORT. The laws of the frame buffer: read after write, the other cells, and the canonical form. -/

namespace Sys2Proof.Machine

/-- A read of the written address gives the written byte. -/
@[simp] theorem Memory.read_write_same (m : Memory) (a : Nat) (b : Byte) :
    (m.write a b).read a = some b := by
  induction m with
  | nil => simp [Memory.write, Memory.read]
  | cons c rest ih =>
    obtain ⟨k, v⟩ := c
    unfold Memory.write
    split
    · simp [Memory.read]
    · split
      · simp [Memory.read]
      · rename_i h₁ h₂
        simp [Memory.read, ih, Ne.symm h₂]

/-- A write leaves every other address alone. -/
theorem Memory.read_write_other (m : Memory) {a a' : Nat} (b : Byte) (h : a' ≠ a) :
    (m.write a b).read a' = m.read a' := by
  induction m with
  | nil => simp [Memory.write, Memory.read, Ne.symm h]
  | cons c rest ih =>
    obtain ⟨k, v⟩ := c
    unfold Memory.write
    split
    · simp [Memory.read, Ne.symm h]
    · split
      · rename_i _ hk
        subst hk
        simp [Memory.read, Ne.symm h]
      · simp [Memory.read, ih]

/-- Both laws in one. -/
theorem Memory.read_write (m : Memory) (a a' : Nat) (b : Byte) :
    (m.write a b).read a' = if a' = a then some b else m.read a' := by
  split
  · subst_vars; simp
  · exact Memory.read_write_other m b ‹_›

/-- What a write lists: the written cell and cells listed before. -/
theorem Memory.mem_write {m : Memory} {a : Nat} {b : Byte} {c : Host.Cell} (h : c ∈ m.write a b) :
    c = (a, b) ∨ c ∈ m := by
  induction m with
  | nil => simpa [Memory.write] using h
  | cons d rest ih =>
    obtain ⟨k, v⟩ := d
    unfold Memory.write at h
    split at h
    · simpa using h
    · split at h
      · rcases List.mem_cons.1 h with h | h
        · exact .inl h
        · exact .inr (List.mem_cons_of_mem _ h)
      · rcases List.mem_cons.1 h with h | h
        · exact .inr (h ▸ List.mem_cons_self ..)
        · exact (ih h).imp id (List.mem_cons_of_mem _)

/-- A write keeps the addresses strictly rising. -/
theorem Memory.pairwise_write {m : Memory} {a : Nat} {b : Byte}
    (h : m.Pairwise fun c d => c.1 < d.1) : (m.write a b).Pairwise fun c d => c.1 < d.1 := by
  induction m with
  | nil => simp [Memory.write]
  | cons d rest ih =>
    obtain ⟨k, v⟩ := d
    obtain ⟨hk, hr⟩ := List.pairwise_cons.1 h
    unfold Memory.write
    split
    · rename_i hlt
      refine List.pairwise_cons.2 ⟨fun c hc => ?_, h⟩
      rcases List.mem_cons.1 hc with rfl | hc
      · exact hlt
      · exact lt_trans hlt (hk c hc)
    · split
      · rename_i _ heq
        subst heq
        exact List.pairwise_cons.2 ⟨hk, hr⟩
      · rename_i h₁ h₂
        refine List.pairwise_cons.2 ⟨fun c hc => ?_, ih hr⟩
        rcases Memory.mem_write hc with rfl | hc
        · exact lt_of_le_of_ne (Nat.le_of_not_lt h₁) (Ne.symm h₂)
        · exact hk c hc

/-- A write inside the buffer keeps the canonical form. -/
theorem Memory.wf_write {m : Memory} {a : Nat} {b : Byte} (h : m.wf) (ha : a < Config.cap) :
    (m.write a b).wf := by
  refine ⟨Memory.pairwise_write h.1, fun c hc => ?_⟩
  rcases Memory.mem_write hc with rfl | hc
  · exact ha
  · exact h.2 c hc

/-- The empty buffer of reset is canonical. -/
theorem Memory.wf_nil : Memory.wf [] := ⟨.nil, by simp⟩

/-- `CNT[7:0]` is always an address of the buffer. -/
theorem State.cursor_lt (s : State) : s.cursor < Config.cap := (s.cnt.setWidth 8).isLt

/-- Below the capacity the cursor is the count (R14). -/
theorem State.cursor_eq (s : State) (h : s.cnt.toNat < Config.cap) : s.cursor = s.cnt.toNat := by
  simp only [Config.cap] at h
  simp [State.cursor, Nat.mod_eq_of_lt h]

/-- `BUF[i]` depends on the buffer's listed byte alone. -/
theorem State.bufAt_congr {s t : State} {i : Nat} (h : s.buf.read i = t.buf.read i) :
    s.bufAt i = t.bufAt i := by
  simp [State.bufAt, h]

/-- A cell that has been written reads as the written byte. -/
theorem State.bufAt_of_read {s : State} {i : Nat} {b : Byte} (h : s.buf.read i = some b) :
    s.bufAt i = b := by
  simp [State.bufAt, h]

end Sys2Proof.Machine
end

