-- ==== Sys2Proof/Laws/State.lean ====
section
/-! SUPPORT. One lemma for each field and each shared update of State: what it reads after the update. -/

namespace Sys2Proof.Machine

variable (s : State)

@[simp] theorem State.store_en (b : Byte) : (s.store b).en = s.en := rfl
@[simp] theorem State.store_rst (b : Byte) : (s.store b).rst = s.rst := rfl
@[simp] theorem State.store_cnt (b : Byte) : (s.store b).cnt = s.cnt + 1#9 := rfl
@[simp] theorem State.store_ts (b : Byte) : (s.store b).ts = if s.cnt = 0#9 then s.now else s.ts := rfl
@[simp] theorem State.store_buf (b : Byte) : (s.store b).buf = s.buf.write s.cursor b := rfl
@[simp] theorem State.store_txq (b : Byte) : (s.store b).txq = s.txq := rfl
@[simp] theorem State.store_now (b : Byte) : (s.store b).now = s.now := rfl
@[simp] theorem State.store_sinkReady (b : Byte) : (s.store b).sinkReady = s.sinkReady := rfl
@[simp] theorem State.store_rdData (b : Byte) : (s.store b).rdData = s.rdData := rfl
@[simp] theorem State.store_port (b : Byte) : (s.store b).port = s.port := rfl
@[simp] theorem State.store_trace (b : Byte) : (s.store b).trace = s.trace := rfl
@[simp] theorem State.store_settings (b : Byte) : (s.store b).settings = s.settings := rfl
@[simp] theorem State.store_inputs (b : Byte) : (s.store b).inputs = s.inputs := rfl

@[simp] theorem State.resetRx_en : (s.resetRx).en = s.en := rfl
@[simp] theorem State.resetRx_rst : (s.resetRx).rst = .p1 := rfl
@[simp] theorem State.resetRx_cnt : (s.resetRx).cnt = 0#9 := rfl
@[simp] theorem State.resetRx_ts : (s.resetRx).ts = s.ts := rfl
@[simp] theorem State.resetRx_buf : (s.resetRx).buf = s.buf := rfl
@[simp] theorem State.resetRx_txq : (s.resetRx).txq = s.txq := rfl
@[simp] theorem State.resetRx_now : (s.resetRx).now = s.now := rfl
@[simp] theorem State.resetRx_sinkReady : (s.resetRx).sinkReady = s.sinkReady := rfl
@[simp] theorem State.resetRx_rdData : (s.resetRx).rdData = s.rdData := rfl
@[simp] theorem State.resetRx_port : (s.resetRx).port = s.port := rfl
@[simp] theorem State.resetRx_trace : (s.resetRx).trace = s.trace := rfl
@[simp] theorem State.resetRx_settings : (s.resetRx).settings = s.settings := rfl
@[simp] theorem State.resetRx_inputs : (s.resetRx).inputs = s.inputs := rfl

@[simp] theorem State.send_en (p : Params) (t : Tag) : (s.send p t).en = s.en := rfl
@[simp] theorem State.send_rst (p : Params) (t : Tag) : (s.send p t).rst = s.rst := rfl
@[simp] theorem State.send_cnt (p : Params) (t : Tag) : (s.send p t).cnt = s.cnt := rfl
@[simp] theorem State.send_ts (p : Params) (t : Tag) : (s.send p t).ts = s.ts := rfl
@[simp] theorem State.send_buf (p : Params) (t : Tag) : (s.send p t).buf = s.buf := rfl
@[simp] theorem State.send_txq (p : Params) (t : Tag) : (s.send p t).txq = s.txq ++ controlFrame p t := rfl
@[simp] theorem State.send_now (p : Params) (t : Tag) : (s.send p t).now = s.now := rfl
@[simp] theorem State.send_sinkReady (p : Params) (t : Tag) : (s.send p t).sinkReady = s.sinkReady := rfl
@[simp] theorem State.send_rdData (p : Params) (t : Tag) : (s.send p t).rdData = s.rdData := rfl
@[simp] theorem State.send_port (p : Params) (t : Tag) : (s.send p t).port = s.port := rfl
@[simp] theorem State.send_trace (p : Params) (t : Tag) : (s.send p t).trace = s.trace := rfl
@[simp] theorem State.send_settings (p : Params) (t : Tag) : (s.send p t).settings = s.settings := rfl
@[simp] theorem State.send_inputs (p : Params) (t : Tag) : (s.send p t).inputs = s.inputs := rfl

@[simp] theorem State.respond_en (r : Response) : (s.respond r).en = s.en := rfl
@[simp] theorem State.respond_rst (r : Response) : (s.respond r).rst = s.rst := rfl
@[simp] theorem State.respond_cnt (r : Response) : (s.respond r).cnt = s.cnt := rfl
@[simp] theorem State.respond_ts (r : Response) : (s.respond r).ts = s.ts := rfl
@[simp] theorem State.respond_buf (r : Response) : (s.respond r).buf = s.buf := rfl
@[simp] theorem State.respond_txq (r : Response) : (s.respond r).txq = s.txq := rfl
@[simp] theorem State.respond_now (r : Response) : (s.respond r).now = s.now := rfl
@[simp] theorem State.respond_sinkReady (r : Response) : (s.respond r).sinkReady = s.sinkReady := rfl
@[simp] theorem State.respond_rdData (r : Response) : (s.respond r).rdData = s.rdData := rfl
@[simp] theorem State.respond_port (r : Response) : (s.respond r).port = s.port := rfl
@[simp] theorem State.respond_trace (r : Response) : (s.respond r).trace = { s.trace with responses := s.trace.responses ++ [r] } := rfl
@[simp] theorem State.respond_settings (r : Response) : (s.respond r).settings = s.settings := rfl
@[simp] theorem State.respond_inputs (r : Response) : (s.respond r).inputs = s.inputs := rfl

@[simp] theorem State.noteCause_en (c : Cause) : (s.noteCause c).en = s.en := rfl
@[simp] theorem State.noteCause_rst (c : Cause) : (s.noteCause c).rst = s.rst := rfl
@[simp] theorem State.noteCause_cnt (c : Cause) : (s.noteCause c).cnt = s.cnt := rfl
@[simp] theorem State.noteCause_ts (c : Cause) : (s.noteCause c).ts = s.ts := rfl
@[simp] theorem State.noteCause_buf (c : Cause) : (s.noteCause c).buf = s.buf := rfl
@[simp] theorem State.noteCause_txq (c : Cause) : (s.noteCause c).txq = s.txq := rfl
@[simp] theorem State.noteCause_now (c : Cause) : (s.noteCause c).now = s.now := rfl
@[simp] theorem State.noteCause_sinkReady (c : Cause) : (s.noteCause c).sinkReady = s.sinkReady := rfl
@[simp] theorem State.noteCause_rdData (c : Cause) : (s.noteCause c).rdData = s.rdData := rfl
@[simp] theorem State.noteCause_port (c : Cause) : (s.noteCause c).port = s.port := rfl
@[simp] theorem State.noteCause_trace (c : Cause) : (s.noteCause c).trace = { s.trace with causes := s.trace.causes ++ [c] } := rfl
@[simp] theorem State.noteCause_settings (c : Cause) : (s.noteCause c).settings = s.settings := rfl
@[simp] theorem State.noteCause_inputs (c : Cause) : (s.noteCause c).inputs = s.inputs := rfl

@[simp] theorem State.pollReturn_en (r : Response) : (s.pollReturn r).en = s.en := rfl
@[simp] theorem State.pollReturn_rst (r : Response) : (s.pollReturn r).rst = s.rst := rfl
@[simp] theorem State.pollReturn_cnt (r : Response) : (s.pollReturn r).cnt = s.cnt := rfl
@[simp] theorem State.pollReturn_ts (r : Response) : (s.pollReturn r).ts = s.ts := rfl
@[simp] theorem State.pollReturn_buf (r : Response) : (s.pollReturn r).buf = s.buf := rfl
@[simp] theorem State.pollReturn_txq (r : Response) : (s.pollReturn r).txq = s.txq := rfl
@[simp] theorem State.pollReturn_now (r : Response) : (s.pollReturn r).now = s.now := rfl
@[simp] theorem State.pollReturn_sinkReady (r : Response) : (s.pollReturn r).sinkReady = s.sinkReady := rfl
@[simp] theorem State.pollReturn_rdData (r : Response) : (s.pollReturn r).rdData = s.rdData := rfl
@[simp] theorem State.pollReturn_port (r : Response) : (s.pollReturn r).port = s.port := rfl
@[simp] theorem State.pollReturn_trace (r : Response) : (s.pollReturn r).trace = { s.trace with causes := s.trace.causes ++ [.none], responses := s.trace.responses ++ [r] } := rfl
@[simp] theorem State.pollReturn_settings (r : Response) : (s.pollReturn r).settings = s.settings := rfl
@[simp] theorem State.pollReturn_inputs (r : Response) : (s.pollReturn r).inputs = s.inputs := rfl

@[simp] theorem State.recover_en (p : Params) (c : Cause) : (s.recover p c).en = s.en := rfl
@[simp] theorem State.recover_rst (p : Params) (c : Cause) : (s.recover p c).rst = .p1 := rfl
@[simp] theorem State.recover_cnt (p : Params) (c : Cause) : (s.recover p c).cnt = 0#9 := rfl
@[simp] theorem State.recover_ts (p : Params) (c : Cause) : (s.recover p c).ts = s.ts := rfl
@[simp] theorem State.recover_buf (p : Params) (c : Cause) : (s.recover p c).buf = s.buf := rfl
@[simp] theorem State.recover_txq (p : Params) (c : Cause) : (s.recover p c).txq = s.txq ++ controlFrame p .nak := rfl
@[simp] theorem State.recover_now (p : Params) (c : Cause) : (s.recover p c).now = s.now := rfl
@[simp] theorem State.recover_sinkReady (p : Params) (c : Cause) : (s.recover p c).sinkReady = s.sinkReady := rfl
@[simp] theorem State.recover_rdData (p : Params) (c : Cause) : (s.recover p c).rdData = s.rdData := rfl
@[simp] theorem State.recover_port (p : Params) (c : Cause) : (s.recover p c).port = s.port := rfl
@[simp] theorem State.recover_trace (p : Params) (c : Cause) : (s.recover p c).trace = { s.trace with causes := s.trace.causes ++ [c], responses := s.trace.responses ++ [.nopkt] } := rfl
@[simp] theorem State.recover_settings (p : Params) (c : Cause) : (s.recover p c).settings = s.settings := rfl
@[simp] theorem State.recover_inputs (p : Params) (c : Cause) : (s.recover p c).inputs = s.inputs := rfl

@[simp] theorem State.resetPin_en : (s.resetPin).en = false := rfl
@[simp] theorem State.resetPin_rst : (s.resetPin).rst = .p1 := rfl
@[simp] theorem State.resetPin_cnt : (s.resetPin).cnt = 0#9 := rfl
@[simp] theorem State.resetPin_ts : (s.resetPin).ts = s.ts := rfl
@[simp] theorem State.resetPin_buf : (s.resetPin).buf = s.buf := rfl
@[simp] theorem State.resetPin_txq : (s.resetPin).txq = [] := rfl
@[simp] theorem State.resetPin_now : (s.resetPin).now = s.now := rfl
@[simp] theorem State.resetPin_sinkReady : (s.resetPin).sinkReady = s.sinkReady := rfl
@[simp] theorem State.resetPin_rdData : (s.resetPin).rdData = s.rdData := rfl
@[simp] theorem State.resetPin_port : (s.resetPin).port = { inFlight := none, held := [], rspWait := none, rspOut := none } := rfl
@[simp] theorem State.resetPin_trace : (s.resetPin).trace = s.trace := rfl
@[simp] theorem State.resetPin_settings : (s.resetPin).settings = s.settings := rfl
@[simp] theorem State.resetPin_inputs : (s.resetPin).inputs = s.inputs := rfl

@[simp] theorem State.popTx_en : s.popTx.en = s.en := by unfold State.popTx; split <;> rfl
@[simp] theorem State.popTx_rst : s.popTx.rst = s.rst := by unfold State.popTx; split <;> rfl
@[simp] theorem State.popTx_cnt : s.popTx.cnt = s.cnt := by unfold State.popTx; split <;> rfl
@[simp] theorem State.popTx_ts : s.popTx.ts = s.ts := by unfold State.popTx; split <;> rfl
@[simp] theorem State.popTx_buf : s.popTx.buf = s.buf := by unfold State.popTx; split <;> rfl
@[simp] theorem State.popTx_now : s.popTx.now = s.now := by unfold State.popTx; split <;> rfl
@[simp] theorem State.popTx_sinkReady : s.popTx.sinkReady = s.sinkReady := by unfold State.popTx; split <;> rfl
@[simp] theorem State.popTx_rdData : s.popTx.rdData = s.rdData := by unfold State.popTx; split <;> rfl
@[simp] theorem State.popTx_port : s.popTx.port = s.port := by unfold State.popTx; split <;> rfl
@[simp] theorem State.popTx_settings : s.popTx.settings = s.settings := by unfold State.popTx; split <;> rfl
@[simp] theorem State.popTx_inputs : s.popTx.inputs = s.inputs := by unfold State.popTx; split <;> rfl
@[simp] theorem State.popTx_txq : s.popTx.txq = s.txq.tail := by unfold State.popTx; split <;> simp_all
@[simp] theorem State.popTx_trace :
    s.popTx.trace = { s.trace with wire := s.trace.wire ++ s.txq.head?.toList } := by
  unfold State.popTx; split <;> simp_all

end Sys2Proof.Machine
end

