-- ==== Sys2Proof/Laws/Exec.lean ====
section
/-! SUPPORT. What `exec` can do, said once: the hold of a command, and one equation for each instruction. -/

namespace Sys2Proof.Machine

/-- An enabled command runs (R92). -/
@[simp] theorem State.asCommand_enabled {s : State} (f : State → State) (h : s.txq = []) :
    s.asCommand f = f s := by
  simp [State.asCommand, State.commandEnabled, h]

/-- A held command changes nothing (R92). -/
@[simp] theorem State.asCommand_held {s : State} (f : State → State) (h : s.txq ≠ []) :
    s.asCommand f = s := by
  simp [State.asCommand, State.commandEnabled, h]

theorem exec_beginCmd (s : State) :
    exec .beginCmd s = .next (s.asCommand fun t => t.begin t.settings.params) := rfl

theorem exec_poll (s : State) :
    exec .poll s = .next (s.asCommand fun t => t.poll t.settings.params) := rfl

theorem exec_ackpkt (s : State) :
    exec .ackpkt s = .next (s.asCommand fun t => t.ackpkt t.settings.params) := rfl

theorem exec_rsvd (s : State) : exec .rsvd s = .next (s.asCommand fun t => t.respond .nopkt) := rfl

theorem exec_rx (b : Byte) (s : State) :
    exec (.rx b) s = .next (if s.en = false then s else if s.cnt = 256#9 then s else s.store b) := rfl

theorem exec_txByte (s : State) : exec .txByte s = .next (if s.txEnabled then s.popTx else s) := rfl

theorem exec_read (a : BitVec 8) (s : State) :
    exec (.read a) s = .next { s with rdData := s.bufAt a.toNat } := rfl

theorem exec_tick (d : Time) (s : State) : exec (.tick d) s = .next { s with now := s.now + d } := rfl

/-- Every instruction answers a next state in every state (R8: no step faults, none is refused). -/
theorem exec_total (i : Instr) (s : State) : ∃ t, exec i s = .next t := by
  cases i <;> exact ⟨_, rfl⟩

/-- The inversion of `exec`: a step that changes anything is one of these. -/
theorem exec_cases {i : Instr} {s t : State} (h : exec i s = .next t) :
    t = s ∨
    (i = .beginCmd ∧ s.txq = [] ∧ t = s.begin s.settings.params) ∨
    (i = .poll ∧ s.txq = [] ∧ t = s.poll s.settings.params) ∨
    (i = .ackpkt ∧ s.txq = [] ∧ t = s.ackpkt s.settings.params) ∨
    (i = .rsvd ∧ s.txq = [] ∧ t = s.respond .nopkt) ∨
    (∃ b, i = .rx b ∧ s.en = true ∧ s.cnt ≠ 256#9 ∧ t = s.store b) ∨
    (i = .txByte ∧ s.txq ≠ [] ∧ s.sinkReady = true ∧ t = s.popTx) ∨
    (∃ a, i = .read a ∧ t = { s with rdData := s.bufAt a.toNat }) ∨
    (∃ d, i = .tick d ∧ t = { s with now := s.now + d }) := by
  cases i with
  | beginCmd =>
    rw [exec_beginCmd] at h; cases h
    by_cases hq : s.txq = [] <;> simp [hq]
  | poll =>
    rw [exec_poll] at h; cases h
    by_cases hq : s.txq = [] <;> simp [hq]
  | ackpkt =>
    rw [exec_ackpkt] at h; cases h
    by_cases hq : s.txq = [] <;> simp [hq]
  | rsvd =>
    rw [exec_rsvd] at h; cases h
    by_cases hq : s.txq = [] <;> simp [hq]
  | rx b =>
    rw [exec_rx] at h; cases h
    by_cases he : s.en = false
    · simp [he]
    · by_cases hc : s.cnt = 256#9
      · exact .inl (by simp [hc])
      · simp [he, hc]
  | txByte =>
    rw [exec_txByte] at h; cases h
    by_cases hq : s.txEnabled = true
    · simp_all [State.txEnabled]
    · simp [hq]
  | read a => rw [exec_read] at h; cases h; simp
  | tick d => rw [exec_tick] at h; cases h; simp

/-- No step reads or writes the inputs: with other inputs it does the same. -/
theorem exec_with_inputs (i : Instr) {s t : State} (r : List Input) (h : exec i s = .next t) :
    exec i { s with inputs := r } = .next { t with inputs := r } := by
  obtain ⟨en, rst, cnt, ts, buf, txq, now, sr, rd, port, tr, cfg, inp⟩ := s
  cases i with
  | poll =>
    cases txq with
    | cons b q => cases h; rfl
    | nil =>
      cases h
      simp only [exec_poll, State.asCommand_enabled, State.poll]
      change Host.Outcome.next (State.runCase _ _
        (State.pollCase ⟨en, rst, cnt, ts, buf, [], now, sr, rd, port, tr, cfg, inp⟩ _)) = _
      generalize State.pollCase _ _ = c
      cases c <;> rfl
  | beginCmd => cases txq <;> cases h <;> rfl
  | ackpkt => cases txq <;> cases en <;> cases h <;> rfl
  | rsvd => cases txq <;> cases h <;> rfl
  | rx b =>
    cases h
    cases en
    · rfl
    · by_cases hc : cnt = 256#9
      · simp only [exec_rx, hc, if_true, if_false, Bool.true_eq_false]
      · simp only [exec_rx, hc, if_false, Bool.true_eq_false]
        rfl
  | txByte => cases txq <;> cases sr <;> cases h <;> rfl
  | read a => cases h; rfl
  | tick d => cases h; rfl

/-- A step keeps the inputs. -/
theorem exec_inputs {i : Instr} {s t : State} (h : exec i s = .next t) : t.inputs = s.inputs := by
  have := exec_with_inputs i s.inputs h
  rw [show ({ s with inputs := s.inputs } : State) = s from rfl, h] at this
  exact congrArg (fun o => match o with | Host.Outcome.next (u : State) => u.inputs | _ => []) this

/-- No step writes the parameters of the instance (R5, R63). -/
theorem exec_settings {i : Instr} {s t : State} (h : exec i s = .next t) : t.settings = s.settings := by
  rcases exec_cases h with rfl | ⟨_, _, rfl⟩ | ⟨_, _, rfl⟩ | ⟨_, _, rfl⟩ | ⟨_, _, rfl⟩ | ⟨_, _, _, _, rfl⟩ |
    ⟨_, _, _, rfl⟩ | ⟨_, _, rfl⟩ | ⟨_, _, rfl⟩
  · rfl
  · rfl
  · simp only [State.poll]
    generalize s.pollCase s.settings.params = c
    cases c <;> rfl
  · unfold State.ackpkt; split <;> rfl
  · rfl
  · rfl
  · exact State.popTx_settings s
  · rfl
  · rfl

/-- The three frames the block sends, byte by byte (R62, R102). -/
theorem controlFrame_ready (c : Settings) :
    controlFrame c.params .ready = [0x03#8, Config.cksum [c.tags.ready], c.tags.ready] := rfl

theorem controlFrame_nak (c : Settings) :
    controlFrame c.params .nak = [0x03#8, Config.cksum [c.tags.nak], c.tags.nak] := rfl

theorem controlFrame_alive (c : Settings) :
    controlFrame c.params .alive = [0x03#8, Config.cksum [c.tags.alive], c.tags.alive] := rfl

/-- BEGIN as one update (R93). -/
theorem State.begin_eq (s : State) (p : Params) :
    s.begin p = { s with
      en := true, cnt := 0#9, rst := .p1, txq := s.txq ++ controlFrame p .alive
      trace := { s.trace with responses := s.trace.responses ++ [.nopkt] } } := rfl

/-- ACKPKT with `EN = 1` as one update (R95). -/
theorem State.ackpkt_enabled {s : State} (p : Params) (h : s.en = true) :
    s.ackpkt p = { s with
      cnt := 0#9, rst := .p1, txq := s.txq ++ controlFrame p .ready
      trace := { s.trace with responses := s.trace.responses ++ [.nopkt] } } := by
  obtain ⟨⟩ := s; cases h; rfl

/-- ACKPKT with `EN = 0` only answers (R97). -/
theorem State.ackpkt_disabled {s : State} (p : Params) (h : s.en = false) :
    s.ackpkt p = s.respond .nopkt := by
  simp [State.ackpkt, h]

end Sys2Proof.Machine
end

