-- ==== Sys2Proof/Laws/PerInstr.lean ====
section
/-! SUPPORT. Facts about every instruction as syntax, one lemma for each constructor. Family EncodeFits: the word the
encoder writes fits its port. -/

namespace Sys2Proof.Laws.EncodeFits

/-- The encoded word sets no bit that its port does not have (R47, R50 to R53). -/
def Statement (i : Instr) : Prop := (encode i).wf = true

theorem beginCmd : Statement .beginCmd := by unfold Statement; decide

theorem poll : Statement .poll := by unfold Statement; decide

theorem ackpkt : Statement .ackpkt := by unfold Statement; decide

theorem rsvd : Statement .rsvd := by unfold Statement; decide

theorem rx (b : Byte) : Statement (.rx b) := by
  have := b.isLt
  simp [Statement, encode, PortWord.wf, Port.width]
  omega

theorem txByte : Statement .txByte := by unfold Statement; decide

theorem read (a : BitVec 8) : Statement (.read a) := by
  have := a.isLt
  simp [Statement, encode, PortWord.wf, Port.width]
  omega

theorem tick (d : Time) : Statement (.tick d) := by
  have : d.toNat < 4294967296 := d.isLt
  simp [Statement, encode, PortWord.wf, Port.width, this]

end Sys2Proof.Laws.EncodeFits
end

