-- ==== Sys2Proof/Laws/Poll.lean ====
section
/-! SUPPORT. What a POLL can do, said once: the conditions of each case (R73) and the three shapes of its effect. -/

namespace Sys2Proof.Machine

/-- An enabled POLL runs its case. -/
theorem exec_poll_case {s : State} {c : PollCase} (hq : s.txq = []) (hc : s.pollCase s.settings.params = c) :
    exec .poll s = .next (s.runCase s.settings.params c) := by
  rw [exec_poll, State.asCommand_enabled _ hq, State.poll, hc]

/-- The timeout test at the instance's threshold (R119). -/
@[simp] theorem State.timedOut_params (s : State) (c : Settings) :
    s.timedOut c.params = decide (c.timeoutMs < s.now - s.ts) := rfl

/-- `L` is the value of `BUF[0]` (R22). -/
@[simp] theorem State.declared_toNat (s : State) : s.declared.toNat = (s.bufAt 0).toNat := by
  have := (s.bufAt 0).isLt
  simp [State.declared]
  omega

/-- The conditions of an accept (R80). -/
theorem State.pollCase_accept {s : State} {p : Params} (h : s.pollCase p = .accept) :
    s.en = true ∧ s.rst = .p2 ∧ s.cnt = 2#9 ∧ s.complementOk = true := by
  unfold State.pollCase at h
  repeat' split at h
  all_goals first | (cases h; done) | simp_all

/-- The conditions of a packet ready (R86). -/
theorem State.pollCase_ready {s : State} {p : Params} (h : s.pollCase p = .ready) :
    s.en = true ∧ s.rst = .body ∧ s.cnt ≠ 0#9 ∧ s.cnt ≠ 1#9 ∧ s.cnt = s.declared ∧ s.checksumOk p = true := by
  unfold State.pollCase at h
  repeat' split at h
  all_goals first | (cases h; done) | simp_all

/-- A POLL that calls RECOVER has found an enabled block with a byte in the buffer, outside P1 (R108). -/
theorem State.pollCase_error {s : State} {p : Params} (h : (s.pollCase p).isError = true) :
    s.en = true ∧ s.rst ≠ .p1 ∧ s.cnt ≠ 0#9 := by
  unfold State.pollCase at h
  repeat' split at h
  all_goals first | (cases h; done) | simp_all

/-- The three shapes of a POLL's effect (R109, R80, and the cases that write at most `RST`). -/
theorem State.poll_shapes (s : State) (p : Params) :
    ((s.pollCase p).isError = true ∧ ∃ c, c ≠ .none ∧ s.poll p = s.recover p c) ∨
    (s.pollCase p = .accept ∧
      s.poll p = (State.send { s with cnt := 1#9, rst := .body } p .ready).pollReturn .nopkt) ∨
    ((s.pollCase p).isError = false ∧ s.pollCase p ≠ .accept ∧
      ∃ q r, s.poll p = State.pollReturn { s with rst := q } r ∧
        (q = s.rst ∨ (s.en = true ∧ s.rst = .p1 ∧ s.cnt ≠ 0#9 ∧ q = .p2) ∨
          (s.rst ≠ .p1 ∧ s.cnt = 0#9 ∧ q = .p1))) := by
  have hself : { s with rst := s.rst } = s := rfl
  unfold State.poll
  generalize hc : s.pollCase p = c
  cases c with
  | prologueTimeout => exact .inl ⟨rfl, _, by simp, rfl⟩
  | prologueCorrupt => exact .inl ⟨rfl, _, by simp, rfl⟩
  | prologueOverrun => exact .inl ⟨rfl, _, by simp, rfl⟩
  | bodyTimeout => exact .inl ⟨rfl, _, by simp, rfl⟩
  | checksumMismatch => exact .inl ⟨rfl, _, by simp, rfl⟩
  | bodyOverrun => exact .inl ⟨rfl, _, by simp, rfl⟩
  | accept => exact .inr (.inl ⟨rfl, rfl⟩)
  | disabled => exact .inr (.inr ⟨rfl, by simp, s.rst, _, rfl, .inl rfl⟩)
  | idle => exact .inr (.inr ⟨rfl, by simp, s.rst, _, rfl, .inl rfl⟩)
  | p2Wait => exact .inr (.inr ⟨rfl, by simp, s.rst, _, rfl, .inl rfl⟩)
  | bodyWait => exact .inr (.inr ⟨rfl, by simp, s.rst, _, rfl, .inl rfl⟩)
  | ready => exact .inr (.inr ⟨rfl, by simp, s.rst, _, rfl, .inl rfl⟩)
  | firstByte =>
    refine .inr (.inr ⟨rfl, by simp, .p2, _, rfl, .inr (.inl ?_)⟩)
    unfold State.pollCase at hc
    repeat' split at hc
    all_goals first | (cases hc; done) | simp_all
  | p2Empty =>
    refine .inr (.inr ⟨rfl, by simp, .p1, _, rfl, .inr (.inr ?_)⟩)
    unfold State.pollCase at hc
    repeat' split at hc
    all_goals first | (cases hc; done) | simp_all
  | bodyEmpty =>
    refine .inr (.inr ⟨rfl, by simp, .p1, _, rfl, .inr (.inr ?_)⟩)
    unfold State.pollCase at hc
    repeat' split at hc
    all_goals first | (cases hc; done) | simp_all

end Sys2Proof.Machine
end

