-- ==== Sys2Proof/Laws/Ports.lean ====
section
/-! SUPPORT. Running a list of steps, and what a clock edge is. -/

namespace Sys2Proof.Machine

@[simp] theorem execAll_nil (s : State) : execAll [] s = .next s := rfl

/-- One step of a list. -/
theorem execAll_cons_of_next {i : Instr} {is : List Instr} {s t : State} (h : exec i s = .next t) :
    execAll (i :: is) s = execAll is t := by
  simp [execAll, h]

/-- Running a list of steps always answers a next state (R8). -/
theorem execAll_total (is : List Instr) (s : State) : ∃ t, execAll is s = .next t := by
  induction is generalizing s with
  | nil => exact ⟨s, rfl⟩
  | cons i is ih =>
    obtain ⟨u, hu⟩ := exec_total i s
    rw [execAll_cons_of_next hu]
    exact ih u

/-- A concatenation runs its parts one after the other. -/
theorem execAll_append_of_next {is js : List Instr} {s t : State} (h : execAll is s = .next t) :
    execAll (is ++ js) s = execAll js t := by
  induction is generalizing s with
  | nil => cases h; rfl
  | cons i is ih =>
    obtain ⟨u, hu⟩ := exec_total i s
    rw [execAll_cons_of_next hu] at h
    rw [List.cons_append, execAll_cons_of_next hu]
    exact ih h

/-- The induction over a list of steps, once: what every step keeps, the list keeps. -/
theorem execAll_keeps {P : State → Prop} {is : List Instr} {s t : State}
    (hstep : ∀ i ∈ is, ∀ u v, P u → exec i u = .next v → P v) (hs : P s)
    (h : execAll is s = .next t) : P t := by
  induction is generalizing s with
  | nil => cases h; exact hs
  | cons i is ih =>
    obtain ⟨u, hu⟩ := exec_total i s
    rw [execAll_cons_of_next hu] at h
    exact ih (fun j hj => hstep j (List.mem_cons_of_mem _ hj)) (hstep i (List.mem_cons_self ..) s u hs hu) h

/-- Where the count is below the capacity, storing a byte adds one to it (R13). -/
theorem State.store_cnt_toNat {s : State} (b : Byte) (h : s.cnt.toNat < 256) :
    (s.store b).cnt.toNat = s.cnt.toNat + 1 := by
  simp [BitVec.toNat_add]
  omega

/-- An enabled receiver with room for them appends received bytes in order (R68, R69), and changes nothing else. -/
theorem execAll_rx (bs : List Byte) (s : State) (he : s.en = true) (hl : s.cnt.toNat + bs.length ≤ 256) :
    ∃ t, execAll (bs.map .rx) s = .next t ∧ t.cnt.toNat = s.cnt.toNat + bs.length ∧
      (∀ k < bs.length, t.buf.read (s.cnt.toNat + k) = bs[k]?) ∧
      (∀ k < s.cnt.toNat, t.buf.read k = s.buf.read k) ∧
      t.ts = (if bs ≠ [] ∧ s.cnt = 0#9 then s.now else s.ts) ∧
      t = { s with cnt := t.cnt, ts := t.ts, buf := t.buf } := by
  induction bs generalizing s with
  | nil => exact ⟨s, rfl, by simp, by simp, by simp, by simp, rfl⟩
  | cons b bs ih =>
    simp only [List.length_cons] at hl
    have hlt : s.cnt.toNat < 256 := by omega
    have hne : s.cnt ≠ 256#9 := by intro h; rw [h] at hlt; simp at hlt
    have hc := State.store_cnt_toNat b hlt
    have hcur := s.cursor_eq (by simpa [Config.cap] using hlt)
    have hex : exec (.rx b) s = .next (s.store b) := by
      rw [exec_rx, if_neg (by simp [he]), if_neg hne]
    obtain ⟨t, h1, h2, h3, h4, h5, h6⟩ := ih (s.store b) he (by omega)
    refine ⟨t, by rw [List.map_cons, execAll_cons_of_next hex, h1], ?_, ?_, ?_, ?_, ?_⟩
    · rw [h2, hc, List.length_cons]; omega
    · intro k hk
      rcases k with _ | k
      · rw [h4 _ (by omega), State.store_buf, hcur]
        simp
      · have := h3 k (by simpa using hk)
        rw [hc] at this
        rw [show s.cnt.toNat + (k + 1) = s.cnt.toNat + 1 + k by omega, this]
        simp
    · intro k hk
      rw [h4 k (by omega), State.store_buf, Memory.read_write_other _ _ (by omega)]
    · have hnz : ¬ (s.store b).cnt = 0#9 := by
        intro h; rw [h] at hc; simp at hc
      rw [h5, if_neg (fun h => hnz h.2)]
      simp
    · rw [h6]; rfl

/-- An edge with `rst_n = 0`: the clock and the READ port go on, and the block is reset (R126). -/
theorem clockEdge_reset {e : Edge} {commit : Bool} {s t : State} (hr : e.rstN = false)
    (h : clockEdge e commit s = .next t) :
    ∃ u, execAll ([.read e.rdAddr] ++ s.edgeTick e) { s with sinkReady := e.txReady } = .next u ∧
      t = u.resetPin := by
  obtain ⟨u, hu⟩ := execAll_total ([.read e.rdAddr] ++ s.edgeTick e) { s with sinkReady := e.txReady }
  simp only [clockEdge, hr, if_true, hu] at h
  exact ⟨u, hu, by cases h; rfl⟩

/-- An edge with `rst_n = 1`: its transactions run, and the port side follows (R30, R31). -/
theorem clockEdge_run {e : Edge} {commit : Bool} {s t : State} (hr : e.rstN = true)
    (h : clockEdge e commit s = .next t) :
    ∃ u, execAll (s.edgeSteps e commit) { s with sinkReady := e.txReady } = .next u ∧
      t = { u with port := s.portAfter e commit u.trace.responses } := by
  obtain ⟨u, hu⟩ := execAll_total (s.edgeSteps e commit) { s with sinkReady := e.txReady }
  simp only [clockEdge, hr, Bool.true_eq_false, if_false, hu] at h
  exact ⟨u, hu, by cases h; rfl⟩

/-- A clock edge always answers a next state. -/
theorem clockEdge_total (e : Edge) (commit : Bool) (s : State) : ∃ t, clockEdge e commit s = .next t := by
  unfold clockEdge
  split
  · obtain ⟨u, hu⟩ := execAll_total ([.read e.rdAddr] ++ s.edgeTick e) { s with sinkReady := e.txReady }
    exact ⟨_, by rw [hu]⟩
  · obtain ⟨u, hu⟩ := execAll_total (s.edgeSteps e commit) { s with sinkReady := e.txReady }
    exact ⟨_, by rw [hu]⟩

/-- A step whose next input is an edge is that edge, on the state without that input. -/
theorem step_edge {s : State} {e : Edge} {c : Bool} {rest : List Input} (h : s.inputs = .edge e c :: rest) :
    step s = clockEdge e c { s with inputs := rest } := by
  unfold step; rw [h]

/-- The steps every edge begins with: the READ port and the clock (R31). -/
theorem execAll_read_tick (s : State) (e : Edge) (r : Bool) :
    execAll ([.read e.rdAddr] ++ s.edgeTick e) { s with sinkReady := r } =
      .next { s with sinkReady := r, rdData := s.bufAt e.rdAddr.toNat, now := e.nowMs } := by
  unfold State.edgeTick
  split
  · rename_i h; rw [h]; rfl
  · rw [execAll_append_of_next (t := { s with sinkReady := r, rdData := s.bufAt e.rdAddr.toNat }) rfl,
      execAll_cons_of_next (exec_tick _ _), execAll_nil]
    simp

/-- Received bytes, stored or dropped, write `CNT`, `TS` and `BUF` and nothing else (R68, R72). -/
theorem execAll_rx_frame (bs : List Byte) {s t : State} (h : execAll (bs.map .rx) s = .next t) :
    t = { s with cnt := t.cnt, ts := t.ts, buf := t.buf } := by
  refine execAll_keeps (P := fun t => t = { s with cnt := t.cnt, ts := t.ts, buf := t.buf }) ?_ rfl h
  intro i hi u v hu hv
  obtain ⟨b, _, rfl⟩ := List.mem_map.1 hi
  rw [exec_rx] at hv; cases hv
  split
  · exact hu
  · split
    · exact hu
    · rw [hu]; rfl

/-- The state after the READ, TICK and TX_BYTE of an edge (R31). -/
def State.afterTx (s : State) (e : Edge) : State :=
  { s with
    sinkReady := e.txReady, rdData := s.bufAt e.rdAddr.toNat, now := e.nowMs
    txq := if e.txReady then s.txq.tail else s.txq
    trace := { s.trace with wire := s.trace.wire ++ if e.txReady then s.txq.head?.toList else [] } }

/-- READ, TICK and TX_BYTE of an edge as one update. -/
theorem execAll_read_tick_tx (s : State) (e : Edge) :
    execAll ([.read e.rdAddr] ++ s.edgeTick e ++ (if !s.txq.isEmpty && e.txReady then [.txByte] else []))
      { s with sinkReady := e.txReady } = .next (s.afterTx e) := by
  rw [execAll_append_of_next (execAll_read_tick s e e.txReady)]
  cases hr : e.txReady <;> cases hq : s.txq <;>
    simp [State.afterTx, hq, execAll, exec_txByte, State.txEnabled, State.popTx, hr]

/-- An edge with `rst_n = 1` at which no command commits. -/
theorem clockEdge_no_commit {s t : State} {e : Edge} {c : Bool} (hr : e.rstN = true) (hc : s.commitOp c = none)
    (h : clockEdge e c s = .next t) :
    ∃ v, execAll ((s.edgeBytes e c).map .rx) (s.afterTx e) = .next v ∧
      t = { v with port := s.portAfter e c v.trace.responses } := by
  obtain ⟨u, hu, rfl⟩ := clockEdge_run hr h
  refine ⟨u, ?_, rfl⟩
  rw [← hu, State.edgeSteps, hc, Option.map_none, Option.toList_none, List.append_nil,
    execAll_append_of_next (execAll_read_tick_tx s e)]

/-- An edge with `rst_n = 1` at which a command commits: its step, then the bytes (R42, R43). -/
theorem clockEdge_commit {s t : State} {e : Edge} {c : Bool} {op : CmdOp} (hr : e.rstN = true)
    (hc : s.commitOp c = some op) (h : clockEdge e c s = .next t) :
    ∃ u v, exec (commandOf op) (s.afterTx e) = .next u ∧
      execAll ((s.edgeBytes e c).map .rx) u = .next v ∧
      t = { v with port := s.portAfter e c v.trace.responses } := by
  obtain ⟨v, hv, rfl⟩ := clockEdge_run hr h
  obtain ⟨u, hu⟩ := exec_total (commandOf op) (s.afterTx e)
  refine ⟨u, v, hu, ?_, rfl⟩
  rw [← hv, State.edgeSteps, hc, Option.map_some, Option.toList_some, List.append_assoc,
    execAll_append_of_next (execAll_read_tick_tx s e), List.singleton_append, execAll_cons_of_next hu]

/-- The inversion of `step`: the four kinds of input. -/
theorem step_cases {s t : State} (h : step s = .next t) :
    (s.inputs = [] ∧ t = s) ∨
    (∃ w rest i, s.inputs = .word w :: rest ∧ decode w = .ok i ∧ exec i { s with inputs := rest } = .next t) ∨
    (∃ b rest, s.inputs = .sink b :: rest ∧ t = { s with inputs := rest, sinkReady := b }) ∨
    (∃ e c rest, s.inputs = .edge e c :: rest ∧ clockEdge e c { s with inputs := rest } = .next t) := by
  unfold step at h
  split at h
  · exact .inl ⟨‹_›, by cases h; rfl⟩
  · split at h
    · exact .inr (.inl ⟨_, _, _, ‹_›, ‹_›, h⟩)
    · cases h
  · exact .inr (.inr (.inl ⟨_, _, ‹_›, by cases h; rfl⟩))
  · exact .inr (.inr (.inr ⟨_, _, _, ‹_›, h⟩))

/-- A run whose first step answers a next state goes on from it. -/
theorem run_of_step (n : Nat) {s t : State} (h : step s = .next t) : core.run (n + 1) s = core.run n t := by
  have hc : core.step s = Host.Outcome.next t := h
  simp only [Host.Core.run, hc]

/-- A run of no steps. -/
theorem run_zero (s : State) : core.run 0 s = Host.Outcome.next s := rfl

end Sys2Proof.Machine
end

