-- ==== Sys2Proof/Tests/Slice0.lean ====
section
/-! SUPPORT. Tests: words written out from the spec's encodings, the checks of WellFormed refusing ill-formed terms, the
spec's vectors (95_test_vectors.md), and for each obligation with hypotheses a state that meets them (`witness_…`). -/

namespace Sys2Proof.Tests.Slice0
open Sys2Proof Sys2Proof.Machine

/-! ## Helpers -/

/-- The spec's test checksum (95_test_vectors.md, conventions). -/
def sum8 (xs : List Byte) : Byte := xs.foldl (· + ·) 0

/-- The parameters of the spec's vectors. -/
def sumParams : Params := { Config.defaults.params with cksum := sum8 }

/-- A buffer that holds the given bytes from an address on. -/
def cells (a : Nat) : List Byte → Memory
  | [] => []
  | b :: bs => (a, b) :: cells (a + 1) bs

/-- An enabled block in a receive state, with a count and the first bytes of the buffer. -/
def block (q : RecvState) (cnt : Count) (bytes : List Byte) : State :=
  { State.reset with en := true, rst := q, cnt := cnt, buf := cells 0 bytes }

/-- The block at two times. -/
def timed (ts now : Time) (s : State) : State := { s with ts := ts, now := now }

/-- What a vector of a command states. -/
structure Seen where
  rst : RecvState
  cnt : Count
  txq : List Byte
  responses : List Response
  causes : List Cause
deriving DecidableEq, Repr

/-- What a vector of a command reads from a state. -/
def seen (s : State) : Seen := ⟨s.rst, s.cnt, s.txq, s.trace.responses, s.trace.causes⟩

/-- The state after an instruction, if there is one. -/
def ran (i : Instr) (s : State) : Option State :=
  match exec i s with
  | .next t => some t
  | .fault _ => none
  | .refused _ => none

/-- An edge with nothing offered. -/
def quiet (now : Time) : Edge :=
  { rstN := true, nowMs := now, rx := none, cmd := none, txReady := true, rdAddr := 0 }

/-- The state after one step, or the same state where it stops. -/
def after (s : State) : State :=
  match step s with
  | .next t => t
  | .fault _ => s
  | .refused _ => s

/-! ## Decoding: the words of 30_encoding.md R47, R50 to R53, written out bit by bit -/

theorem test_decode_begin : decode ⟨.cmd, 0b00⟩ = .ok .beginCmd := by decide
theorem test_decode_poll : decode ⟨.cmd, 0b01⟩ = .ok .poll := by decide
theorem test_decode_ackpkt : decode ⟨.cmd, 0b10⟩ = .ok .ackpkt := by decide
theorem test_decode_rsvd : decode ⟨.cmd, 0b11⟩ = .ok .rsvd := by decide
theorem test_decode_rx : decode ⟨.rx, 0b10110100⟩ = .ok (.rx 0xB4#8) := by decide
theorem test_decode_tx : decode ⟨.tx, 0⟩ = .ok .txByte := by decide
theorem test_decode_read : decode ⟨.read, 0b11111110⟩ = .ok (.read 254#8) := by decide
theorem test_decode_tick : decode ⟨.clock, 0xFFFFFFFF⟩ = .ok (.tick 0xFFFFFFFF#32) := by decide
theorem test_table_words :
    decodeTableWord 8 0b11 = some .rsvd ∧ decodeTableWord 8 0b100 = some (.rx 4#8) ∧
    decodeTableWord 8 0xFF = some (.rx 0xFF#8) ∧ decodeTableWord 32 0 = some (.tick 0#32) := by decide

/-! ## WellFormed refuses ill-formed terms -/

theorem test_wf_cmd : PortWord.wf ⟨.cmd, 0b11⟩ = true ∧ PortWord.wf ⟨.cmd, 0b100⟩ = false := by decide
theorem test_wf_rx : PortWord.wf ⟨.rx, 0xFF⟩ = true ∧ PortWord.wf ⟨.rx, 0x100⟩ = false := by decide
theorem test_wf_tx : PortWord.wf ⟨.tx, 0⟩ = true ∧ PortWord.wf ⟨.tx, 1⟩ = false := by decide
theorem test_wf_read : PortWord.wf ⟨.read, 0xFF⟩ = true ∧ PortWord.wf ⟨.read, 0x100⟩ = false := by decide
theorem test_decode_refuses : decode ⟨.cmd, 0b100⟩ = .error (.tooWide .cmd) := by decide
/-- "tags must be distinct" (R63). -/
theorem test_wf_tags :
    Params.wf sumParams = true ∧ Params.wf { sumParams with tag := fun _ => 0x02 } = false := by decide

/-- The same of an instance's settings. -/
theorem test_wf_settings :
    Config.defaults.wf = true ∧
    Settings.wf { Config.defaults with tags := { Config.defaults.tags with nak := 0x02 } } = false := by decide

/-! ## Vectors ENC, TIM -/

/-- ENC-5, ENC-6. -/
theorem test_response_words :
    Response.nopkt.word = 0b000000000#9 ∧
    (Response.pkt [0x05, 0xB4, 0x03, 0x48, 0x69]).word = 0b100000101#9 := by decide

/-- ENC-8, ENC-9. -/
theorem test_complement :
    (∀ b ∈ [[0x00, 0xFF], [0x03, 0xFC], [0x7F, 0x80], [0x80, 0x7F], [0xFF, 0x00]],
      (block .p2 2 b).complementOk = true) ∧
    (∀ b ∈ [[0x05, 0xFB], [0x05, 0x05], [0xFF, 0xFF], [0x00, 0x00], [0x10, 0xEE]],
      (block .p2 2 b).complementOk = false) := by decide

/-- ENC-10, ENC-11. -/
theorem test_checksum_region :
    (block .body 5 [0x05, 0xB4, 0x03, 0x48, 0x69]).checksumRegion = [0x03, 0x48, 0x69] ∧
    (block .body 5 [0x05, 0xB4, 0x03, 0x48, 0x69]).checksumOk sumParams = true ∧
    (block .body 2 [0x02, 0x00]).checksumRegion = [] := by decide

/-- TIM-3, TIM-4, TIM-5, TIM-6, TIM-8, TIM-9. -/
theorem test_timed_out :
    (timed 1000 1020 (block .p2 1 [])).timedOut sumParams = false ∧
    (timed 1000 1021 (block .p2 1 [])).timedOut sumParams = true ∧
    (timed 0xFFFFFFF0 4 (block .p2 1 [])).timedOut sumParams = false ∧
    (timed 0xFFFFFFF0 5 (block .p2 1 [])).timedOut sumParams = true ∧
    (timed 5 4 (block .p2 1 [])).timedOut sumParams = true ∧
    (timed 0 0xFFFFFFFF (block .p2 1 [])).timedOut sumParams = true := by decide

/-! ## Vectors of the steps -/

/-- RX-2: the first byte captures `TS`. -/
theorem test_rx_first :
    ran (.rx 0x05) (timed 7 1000 (block .p1 0 [])) =
      some { block .p1 1 [0x05] with ts := 1000, now := 1000 } := by decide

/-- RX-4: after an accept the next byte overwrites the complement; RX-6: a full buffer drops the byte. -/
theorem test_rx_later :
    ran (.rx 0xB4) (block .body 1 [0x05, 0xFA]) = some (block .body 2 [0x05, 0xB4]) ∧
    ran (.rx 0x22) (block .p2 256 [0x05]) = some (block .p2 256 [0x05]) := by decide

/-- CMD-1, CMD-2. -/
theorem test_begin :
    seen (State.reset.begin sumParams) = ⟨.p1, 0, [0x03, 0x04, 0x04], [.nopkt], []⟩ ∧
    (State.reset.begin sumParams).en = true ∧
    seen ((block .body 3 [0x05, 0xB4, 0x03]).begin sumParams) = ⟨.p1, 0, [0x03, 0x04, 0x04], [.nopkt], []⟩ := by
  decide

/-- CMD-5, CMD-7. -/
theorem test_ackpkt :
    seen ((block .p2 1 [0x05]).ackpkt sumParams) = ⟨.p1, 0, [0x03, 0x02, 0x02], [.nopkt], []⟩ ∧
    seen (State.reset.ackpkt sumParams) = ⟨.p1, 0, [], [.nopkt], []⟩ := by decide

/-- CMD-8. -/
theorem test_rsvd : (ran .rsvd (block .p2 1 [0x05])).map seen = some ⟨.p2, 1, [], [.nopkt], []⟩ := by decide

/-- POLL-3, 8, 9, 12, 16, 19: the prologue. -/
theorem test_poll_prologue :
    seen ((block .p1 1 [0x05]).poll sumParams) = ⟨.p2, 1, [], [.nopkt], [.none]⟩ ∧
    seen ((timed 5000 5020 (block .p2 1 [0x05])).poll sumParams) = ⟨.p2, 1, [], [.nopkt], [.none]⟩ ∧
    seen ((timed 5000 5021 (block .p2 1 [0x05])).poll sumParams) =
      ⟨.p1, 0, [0x03, 0x09, 0x09], [.nopkt], [.prologueTimeout]⟩ ∧
    seen ((block .p2 2 [0x05, 0xFA]).poll sumParams) = ⟨.body, 1, [0x03, 0x02, 0x02], [.nopkt], [.none]⟩ ∧
    seen ((block .p2 2 [0x10, 0xEE]).poll sumParams) =
      ⟨.p1, 0, [0x03, 0x09, 0x09], [.nopkt], [.prologueCorrupt]⟩ ∧
    seen ((block .p2 3 [0x05, 0xFA, 0xB4]).poll sumParams) =
      ⟨.p1, 0, [0x03, 0x09, 0x09], [.nopkt], [.prologueOverrun]⟩ := by decide

/-- POLL-22, 28, 30, 33, 36, 39: the body. -/
theorem test_poll_body :
    seen ((timed 1000 1020 (block .body 1 [0x05])).poll sumParams) = ⟨.body, 1, [], [.nopkt], [.none]⟩ ∧
    seen ((timed 100 121 (block .body 1 [0x00])).poll sumParams) =
      ⟨.p1, 0, [0x03, 0x09, 0x09], [.nopkt], [.bodyTimeout]⟩ ∧
    seen ((block .body 5 [0x05, 0xB4, 0x03, 0x48, 0x69]).poll sumParams) =
      ⟨.body, 5, [], [.pkt [0x05, 0xB4, 0x03, 0x48, 0x69]], [.none]⟩ ∧
    seen ((block .body 2 [0x02, 0x00]).poll sumParams) = ⟨.body, 2, [], [.pkt [0x02, 0x00]], [.none]⟩ ∧
    seen ((timed 0 50 (block .body 4 [0x04, 0x0A, 0x08, 0x01])).poll sumParams) =
      ⟨.p1, 0, [0x03, 0x09, 0x09], [.nopkt], [.checksumMismatch]⟩ ∧
    seen ((timed 0 50 (block .body 5 [0x04, 0x09, 0x08, 0x01, 0x04])).poll sumParams) =
      ⟨.p1, 0, [0x03, 0x09, 0x09], [.nopkt], [.bodyOverrun]⟩ := by decide

/-- An instance with other parameters: `TIMEOUT_MS` 5 and another NAK tag ("With `TIMEOUT_MS` as a parameter `T`, the
boundary is elapsed `T` (false) and `T + 1` (true)"). -/
def other : Settings := { timeoutMs := 5, tags := { Config.defaults.tags with nak := 0x40 } }

theorem test_other_parameters :
    exec .poll (timed 0 5 { block .p2 1 [0x05] with settings := other }) =
      .next { timed 0 5 { block .p2 1 [0x05] with settings := other } with
        trace := { wire := [], responses := [.nopkt], causes := [.none] } } ∧
    exec .poll (timed 0 6 { block .p2 1 [0x05] with settings := other }) =
      .next { timed 0 6 { block .p2 1 [0x05] with settings := other } with
        rst := .p1, cnt := 0, txq := [0x03, Config.cksum [0x40], 0x40]
        trace := { wire := [], responses := [.nopkt], causes := [.prologueTimeout] } } := ⟨rfl, rfl⟩

/-- CMD-9. -/
theorem test_read :
    (ran (.read 4) (block .body 5 [0x05, 0xB4, 0x03, 0x48, 0x69])).map (·.rdData) = some 0x69 := by decide

/-- TX-2, TX-4. -/
theorem test_tx_byte :
    ran .txByte { block .p1 0 [] with txq := [0x03, 0x02, 0x02] } =
      some { block .p1 0 [] with txq := [0x02, 0x02], trace := { wire := [0x03], responses := [], causes := [] } } ∧
    ran .txByte { block .p1 0 [] with txq := [0x09], sinkReady := false } =
      some { block .p1 0 [] with txq := [0x09], sinkReady := false } := by decide

/-- The TICK vector of 95_test_vectors.md L2.6. -/
theorem test_tick : ran (.tick 3) (timed 0 0xFFFFFFFE (block .p1 0 [])) = some (timed 0 1 (block .p1 0 [])) := by decide

/-! ## Vectors of one clock edge (RST-1, ORD-1 to ORD-3) -/

theorem test_rst_1 :
    after { block .body 3 [0x05, 0xB4, 0x03] with
      ts := 1000, txq := [0x09, 0x09], inputs := [.edge { quiet 1001 with rstN := false, rx := some 7 } false] } =
    { block .p1 0 [0x05, 0xB4, 0x03] with en := false, ts := 1000, now := 1001, rdData := 0x05 } := by decide

/-- ORD-1, for a buffer whose `BUF[0]` is overwritten by the byte of the commit edge. -/
theorem test_ord_1 :
    let t := after { block .body 5 [0x05, 0xB4, 0x03, 0x48, 0x69] with
      now := 300
      port := { State.reset.port with inFlight := some 0b10 }
      inputs := [.edge { quiet 300 with rx := some 0x07 } true] }
    t.rst = .p1 ∧ t.cnt = 1 ∧ t.bufAt 0 = 0x07 ∧ t.ts = 300 ∧ t.txq.length = 3 := by decide

/-- ORD-2: the byte is held while the POLL is in flight, the POLL sees `CNT = 1`, then the byte is appended. -/
theorem test_ord_2 :
    let s := after { block .p2 1 [0x05] with
      ts := 400, now := 400
      port := { State.reset.port with inFlight := some 0b01 }
      inputs := [.edge { quiet 400 with rx := some 0xFA } false, .edge (quiet 400) true] }
    let t := after s
    s.cnt = 1 ∧ s.port.held = [0xFA] ∧ t.rst = .p2 ∧ t.cnt = 2 ∧ t.bufAt 1 = 0xFA ∧ t.txq = [] := by decide

/-- ORD-3: after the accept a byte that arrives while the READY frame drains is taken at `BUF[1]`. -/
theorem test_ord_3 :
    let t := after { block .body 1 [0x05, 0xFA] with
      txq := [0x02, 0x02]
      port := { State.reset.port with rspWait := some .nopkt }
      inputs := [.edge { quiet 0 with rx := some 0xB4 } false] }
    t.rst = .body ∧ t.cnt = 2 ∧ t.bufAt 1 = 0xB4 ∧ t.txq = [0x02] ∧ t.trace.wire = [0x02] := by decide

/-! ## Witnesses: states that meet the hypotheses of the obligations, each clause at a boundary of its range -/

/-- An idle enabled block; one with a partly sent READY frame; a disabled one. -/
def idle : State := block .p1 0 []
def sending : State := { block .body 1 [0x05, 0xFA] with txq := [Config.cksum [0x02], 0x02] }
def disabled : State := State.reset

/-- The smallest ready packet: `L = 2`, and the checksum of an empty region. -/
def ready : State := block .body 2 [0x02, Config.cksum []]

/-- The same with a wrong checksum byte. -/
def badSum : State := block .body 2 [0x02, Config.cksum [] + 1]

/-- A state whose next input is an edge. -/
def edged (s : State) (e : Edge) (commit : Bool) : State := { s with inputs := [.edge e commit] }

/-- A state with a command in flight. -/
def flying (op : CmdOp) (s : State) : State := { s with port := { s.port with inFlight := some op } }

theorem ready_case : ready.pollCase Config.defaults.params = .ready := by
  have h : ready.checksumOk Config.defaults.params = true := decide_eq_true rfl
  show (if ready.checksumOk Config.defaults.params then PollCase.ready else .checksumMismatch) = .ready
  rw [h]; rfl

/-- The POLL of the ready packet. -/
theorem ready_poll : exec .poll ready = .next { ready with
    trace := ready.trace.polled .none (.pkt [0x02, Config.cksum []]) } :=
  (exec_poll_case rfl ready_case).trans rfl

theorem next_ne {α : Byte} : α + 1 ≠ α := by bv_omega

theorem idle_inv : idle.Inv where
  tagsDistinct := by decide
  bufCanonical := Memory.wf_nil
  cntInRange := by decide
  written := by intro i h; exact absurd h (Nat.not_lt_zero i)
  sequencing := by decide
  disabledIdle := by decide
  oneFrame := ⟨.ready, by decide, List.nil_suffix⟩
  heldInFlight := by decide
  oneCommand := by decide

theorem sending_inv (r : List Input) : State.Inv { sending with inputs := r } where
  tagsDistinct := (by decide : sending.settings.wf = true)
  bufCanonical := (by decide : Memory.wf sending.buf)
  cntInRange := (by decide : sending.cnt.toNat ≤ Config.cap)
  written := by intro i h; obtain rfl : i = 0 := Nat.lt_one_iff.1 h; rfl
  sequencing := fun _ => (by decide : sending.cnt ≠ 0#9)
  disabledIdle := by intro h; cases h
  oneFrame := ⟨.ready, by decide, ⟨[0x03], rfl⟩⟩
  heldInFlight := by intro h; exact absurd rfl h
  oneCommand := by intro h; cases h

/-- The attempt in `sending`: an accepted prologue `05 FA` at time 0. -/
def acceptedAttempt : Attempt := { bytes := [0x05, 0xFA], accepted := true, firstAt := some 0 }

theorem sending_resident : sending.Resident acceptedAttempt where
  count := rfl
  cells := by intro i h; obtain rfl : i = 0 := Nat.lt_one_iff.1 h; rfl
  stamp := by intro _; rfl
  prologue := by intro _; decide
  inBody := by decide

/-- The defaults and other settings have distinct tags. -/
theorem witness_InvAtReset : Config.defaults.wf = true ∧ other.wf = true := by decide

theorem witness_ResponseWordsAndCodes :
    ([] : List Byte).length < 256 ∧ (List.replicate 255 (0 : Byte)).length < 256 := by
  rw [List.length_replicate]; decide

theorem witness_StepRunsTheDecodedInstruction :
    (∃ rest, ({ idle with inputs := [.word ⟨.rx, 0xFF⟩] } : State).inputs = .word ⟨.rx, 0xFF⟩ :: rest ∧
      decode ⟨.rx, 0xFF⟩ = .ok (.rx 0xFF#8)) ∧
    decodeTableWord 8 0b11 = some .rsvd ∧ decodeTableWord 32 0xFFFFFFFF = some (.tick 0xFFFFFFFF#32) :=
  ⟨⟨[], rfl, by decide⟩, by decide, by decide⟩

theorem witness_StepWithoutAStepKind :
    idle.inputs = [] ∧ ({ idle with inputs := [.sink false] } : State).inputs = [.sink false] ∧
    ({ idle with inputs := [.word ⟨.cmd, 4⟩] } : State).inputs = [.word ⟨.cmd, 4⟩] ∧
    2 ^ Port.cmd.width ≤ (4 : BitVec 32).toNat := by decide

theorem witness_ScheduleRunsItsInstructions :
    ({ idle with inputs := [.word ⟨.rx, 0x05⟩, .word ⟨.cmd, 0b01⟩, .sink true] } : State).inputs =
      [Instr.rx 0x05, .poll].map (fun i => Input.word (encode i)) ++ [.sink true] := by decide

theorem witness_WellFormedInputsNeverStop :
    State.WordsFit { idle with inputs := [.word ⟨.cmd, 0b11⟩, .word ⟨.clock, 0xFFFFFFFF⟩] } := by
  intro w h; simp at h; rcases h with rfl | rfl <;> decide

theorem witness_ResetEdge : ∃ e : Edge,
    (edged (flying 0b01 sending) e true).inputs = [.edge e true] ∧ e.rstN = false ∧ e.rx = some 7 :=
  ⟨{ quiet 5 with rstN := false, rx := some 7 }, rfl, rfl, rfl⟩

theorem witness_StepKeepsInv :
    State.Inv { sending with inputs := [.word ⟨.rx, 0xB4⟩] } ∧
    ∃ t, step { sending with inputs := [.word ⟨.rx, 0xB4⟩] } = .next t ∧ t.cnt = 2 :=
  ⟨sending_inv _, _, rfl, rfl⟩

theorem witness_RxStoresTheByte :
    (idle.en = true ∧ idle.cnt ≠ 256#9) ∧ (block .p2 255 []).en = true ∧ (block .p2 255 []).cnt ≠ 256#9 := by decide

theorem witness_RxDroppedWhileDisabled : disabled.en = false := rfl

theorem witness_RxDroppedWhileFull : ∀ q : RecvState, q = .p2 ∨ q = .body →
    (block q 256 []).cnt = 256#9 ∧ (block q 256 []).en = true ∧ (block q 256 []).txq = [] ∧
    (block q 256 []).rst = q := by
  intro q h; exact ⟨rfl, rfl, rfl, rfl⟩

theorem witness_RxIgnoresRstAndTxq : ∃ t, exec (.rx 0xB4) sending = .next t ∧ t.cnt = 2 := ⟨_, rfl, rfl⟩

/-- For BeginCompletes, AckpktCompletes, AckpktWhileDisabled, RsvdCompletes, PollWhileDisabled, RecoverIsResetAndNak. -/
theorem witness_commands :
    (disabled.txq = [] ∧ disabled.en = false) ∧ (ready.txq = [] ∧ ready.en = true) := ⟨⟨rfl, rfl⟩, rfl, rfl⟩

theorem witness_CommandsHeldWhileFrameQueued :
    sending.txq ≠ [] ∧ Instr.poll ∈ [Instr.beginCmd, .poll, .ackpkt, .rsvd] :=
  ⟨List.cons_ne_nil _ _, by decide⟩

theorem witness_TxByteCompletes :
    (sending.txq = Config.cksum [0x02] :: [0x02] ∧ sending.sinkReady = true) ∧ idle.txq = [] ∧
    ({ sending with sinkReady := false } : State).sinkReady = false := ⟨⟨rfl, rfl⟩, rfl, rfl⟩

theorem witness_TickCompletes : ∃ t, exec (.tick 1) idle = .next t ∧ t.now ≠ idle.now := ⟨_, rfl, by decide⟩

theorem witness_PollIdle : idle.txq = [] ∧ idle.en = true ∧ idle.rst = .p1 ∧ idle.cnt = 0#9 := by decide

theorem witness_PollFirstByte : ∀ c : Count, c = 1#9 ∨ c = 256#9 →
    (block .p1 c []).txq = [] ∧ (block .p1 c []).en = true ∧ (block .p1 c []).rst = .p1 ∧
    1#9 ≤ (block .p1 c []).cnt := by
  rintro c (rfl | rfl) <;> decide

theorem witness_PollEmptyOutsideP1 : ∀ q : RecvState, q = .p2 ∨ q = .body →
    (block q 0 []).txq = [] ∧ (block q 0 []).en = true ∧
    ((block q 0 []).rst = .p2 ∨ (block q 0 []).rst = .body) ∧ (block q 0 []).cnt = 0#9 := by
  intro q h; exact ⟨rfl, rfl, h, rfl⟩

/-- The wait ends at 20 elapsed, the timeout starts at 21. -/
theorem witness_PollPrologueWaitOrTimeout : ∀ n : Time,
    (timed 0xFFFFFFF0 n (block .p2 1 [0x05])).txq = [] ∧ (timed 0xFFFFFFF0 n (block .p2 1 [0x05])).en = true ∧
    (timed 0xFFFFFFF0 n (block .p2 1 [0x05])).rst = .p2 ∧ (timed 0xFFFFFFF0 n (block .p2 1 [0x05])).cnt = 1#9 ∧
    4#32 - 0xFFFFFFF0#32 ≤ (block .p2 1 [0x05]).settings.timeoutMs ∧
    (block .p2 1 [0x05]).settings.timeoutMs < 5#32 - 0xFFFFFFF0#32 := by
  intro n; exact ⟨rfl, rfl, rfl, rfl, by decide, by decide⟩

theorem witness_PollPrologueAccept : ∀ b ∈ ([[0x00, 0xFF], [0xFF, 0x00], [0x05, 0xFA]] : List (List Byte)),
    (block .p2 2 b).txq = [] ∧ (block .p2 2 b).en = true ∧ (block .p2 2 b).rst = .p2 ∧
    (block .p2 2 b).cnt = 2#9 ∧ (block .p2 2 b).bufAt 1 = ~~~ (block .p2 2 b).bufAt 0 := by decide

theorem witness_PollPrologueErrors :
    ((block .p2 2 [0x10, 0xEE]).txq = [] ∧ (block .p2 2 [0x10, 0xEE]).en = true ∧
      (block .p2 2 [0x10, 0xEE]).rst = .p2 ∧ (block .p2 2 [0x10, 0xEE]).cnt = 2#9 ∧
      (block .p2 2 [0x10, 0xEE]).bufAt 1 ≠ ~~~ (block .p2 2 [0x10, 0xEE]).bufAt 0) ∧
    3#9 ≤ (block .p2 3 []).cnt ∧ 3#9 ≤ (block .p2 256 []).cnt := by decide

/-- `CNT = 1` for `L = 0`, `CNT = L - 1` for `L = 255`, at both sides of the deadline. -/
theorem witness_PollBodyWaitOrTimeout : ∀ n : Time, n = 20#32 ∨ n = 21#32 →
    ((timed 0 n (block .body 1 [0x00])).txq = [] ∧ (timed 0 n (block .body 1 [0x00])).en = true ∧
      (timed 0 n (block .body 1 [0x00])).rst = .body ∧ (timed 0 n (block .body 1 [0x00])).cnt = 1#9) ∧
    (2#9 ≤ (timed 0 n (block .body 254 [0xFF])).cnt ∧
      (timed 0 n (block .body 254 [0xFF])).cnt < ((timed 0 n (block .body 254 [0xFF])).bufAt 0).setWidth 9) ∧
    20#32 - 0#32 ≤ (block .body 1 [0x00]).settings.timeoutMs ∧
    (block .body 1 [0x00]).settings.timeoutMs < 21#32 - 0#32 := by
  rintro n (rfl | rfl) <;> decide

theorem witness_PollCompleteBody :
    (ready.txq = [] ∧ ready.en = true ∧ ready.rst = .body ∧ 2#9 ≤ ready.cnt ∧
      ready.cnt = (ready.bufAt 0).setWidth 9) ∧
    Config.cksum ((List.range ((ready.bufAt 0).toNat - 2)).map fun i => ready.bufAt (2 + i)) = ready.bufAt 1 ∧
    (badSum.cnt = (badSum.bufAt 0).setWidth 9 ∧ ¬
      Config.cksum ((List.range ((badSum.bufAt 0).toNat - 2)).map fun i => badSum.bufAt (2 + i)) = badSum.bufAt 1) ∧
    (block .body 255 [0xFF]).cnt = ((block .body 255 [0xFF]).bufAt 0).setWidth 9 :=
  ⟨⟨rfl, rfl, rfl, by decide, by decide⟩, rfl, ⟨by decide, fun h => next_ne (Eq.symm h)⟩, by decide⟩

theorem witness_PollBodyOverrun : ∀ (c : Count) (l : Byte), (c, l) = (2, 0x01) ∨ (c, l) = (256, 0xFF) →
    (block .body c [l]).txq = [] ∧ (block .body c [l]).en = true ∧ (block .body c [l]).rst = .body ∧
    2#9 ≤ (block .body c [l]).cnt ∧ ((block .body c [l]).bufAt 0).setWidth 9 < (block .body c [l]).cnt := by
  rintro c l (h | h) <;> cases h <;> decide

/-- A step of each kind that changes what it may change. -/
theorem witness_OnlyTheNamedStepsWrite :
    (∃ t, exec .beginCmd disabled = .next t ∧ t.en ≠ disabled.en ∧ t.txq ≠ disabled.txq ∧
      t.trace.responses ≠ disabled.trace.responses) ∧
    (∃ t, exec .ackpkt ready = .next t ∧ t.rst ≠ ready.rst ∧ t.cnt ≠ ready.cnt) ∧
    (∃ t, exec .poll idle = .next t ∧ t.trace.causes ≠ idle.trace.causes) ∧
    (∃ t, exec (.rx 5) (timed 0 1 idle) = .next t ∧ t.cnt ≠ (timed 0 1 idle).cnt ∧ t.ts ≠ (timed 0 1 idle).ts) ∧
    (∃ t, exec (.read 0) sending = .next t ∧ t.rdData ≠ sending.rdData) ∧
    (∃ t, exec .txByte sending = .next t ∧ t.trace.wire ≠ sending.trace.wire) :=
  ⟨⟨_, rfl, by decide, (by intro h; cases h), (by intro h; cases h)⟩, ⟨_, rfl, (by intro h; cases h), by decide⟩,
    ⟨_, rfl, by intro h; cases h⟩, ⟨_, rfl, by decide, by decide⟩, ⟨_, rfl, by decide⟩,
    ⟨_, rfl, by intro h; cases h⟩⟩

theorem witness_OnlyRxWritesTheBuffer :
    (idle.cnt.toNat ≤ 256 ∧ ∃ t, exec (.rx 5) idle = .next t ∧ t.bufAt 0 = 5) ∧
    (block .p2 255 []).cnt.toNat ≤ 256 ∧ ∃ t, exec (.rx 5) (block .p2 255 []) = .next t ∧ t.bufAt 255 = 5 :=
  ⟨⟨by decide, _, rfl, by decide⟩, by decide, _, rfl, by decide⟩

/-- A byte that a receiver stores where another byte was listed changes the cell. -/
theorem witness_OnlyRxWritesTheBuffer_changed :
    ∃ t, exec (.rx 5) (block .p1 0 [6]) = .next t ∧
      t.bufAt (0 : BitVec 8).toNat ≠ (block .p1 0 [6]).bufAt (0 : BitVec 8).toNat := ⟨_, rfl, by decide⟩

theorem witness_TimeIrrelevantWhereNotChecked :
    (¬ ((block .p2 2 [5, 0xFA]).rst = .p2 ∧ (block .p2 2 [5, 0xFA]).cnt = 1#9) ∧
      ¬ (block .p2 2 [5, 0xFA]).rst = .body ∧ ∃ t, exec .poll (block .p2 2 [5, 0xFA]) = .next t ∧ t.rst = .body) ∧
    ¬ (ready.rst = .body ∧ (ready.cnt = 1#9 ∨ ready.cnt < (ready.bufAt 0).setWidth 9)) :=
  ⟨⟨by decide, by decide, _, rfl, by decide⟩, by
    rintro ⟨_, h | h⟩
    · exact absurd h (by decide)
    · exact absurd h (by decide)⟩

theorem witness_TimeoutOnlyAfterTheDeadline :
    (∃ t, exec .poll (timed 0 21 (block .p2 1 [5])) = .next t ∧ t.trace.causes = [] ++ [.prologueTimeout]) ∧
    ∃ t, exec .poll (timed 0 21 (block .body 1 [5])) = .next t ∧ t.trace.causes = [] ++ [.bodyTimeout] :=
  ⟨⟨_, rfl, by decide⟩, _, rfl, by decide⟩

theorem witness_PollsNeededPerAttempt :
    (block .p1 2 [5, 0xFA]).rst = .p1 ∧ [Instr.poll].count .poll ≤ 1 ∧ [Instr.poll, .rx 9, .poll].count .poll ≤ 2 ∧
    (∃ t, execAll [.poll] (block .p1 2 [5, 0xFA]) = .next t) ∧
    ∃ t, execAll [.poll, .rx 9, .poll] (block .p1 2 [5, 0xFA]) = .next t :=
  ⟨rfl, by decide, by decide, execAll_total _ _, execAll_total _ _⟩

theorem witness_PacketResponseIsValidated :
    ∃ t, exec .poll ready = .next t ∧ t.trace.responses = ready.trace.responses ++ [.pkt [0x02, Config.cksum []]] :=
  ⟨_, ready_poll, rfl⟩

theorem witness_ReadinessIsIdempotent :
    ∃ t u, exec .poll ready = .next t ∧
      t.trace.responses = ready.trace.responses ++ [.pkt [0x02, Config.cksum []]] ∧
      (∀ i ∈ [Instr.poll, .tick 99, .read 1], i ≠ .ackpkt ∧ i ≠ .beginCmd ∧ ∀ b, i ≠ .rx b) ∧
      execAll [.poll, .tick 99, .read 1] t = .next u := by
  obtain ⟨u, hu⟩ := execAll_total [.poll, .tick 99, .read 1]
    { ready with trace := ready.trace.polled .none (.pkt [0x02, Config.cksum []]) }
  exact ⟨_, u, ready_poll, rfl, by simp, hu⟩

/-- A byte between the POLL and the ACKPKT, nothing but commands after it, and the view's last address. -/
theorem witness_PacketViewStaysReadable :
    ∃ t u, exec .poll ready = .next t ∧
      t.trace.responses = ready.trace.responses ++ [.pkt [0x02, Config.cksum []]] ∧
      (∀ i ∈ [Instr.rx 7, .tick 1], i ≠ .ackpkt ∧ i ≠ .beginCmd ∧ i ≠ .poll) ∧
      (∀ i ∈ [Instr.ackpkt, .txByte, .poll], ∀ b, i ≠ .rx b) ∧
      execAll ([.rx 7, .tick 1] ++ [.ackpkt, .txByte, .poll]) t = .next u ∧
      (1 : BitVec 8).toNat < [0x02, Config.cksum []].length := by
  obtain ⟨u, hu⟩ := execAll_total ([.rx 7, .tick 1] ++ [.ackpkt, .txByte, .poll])
    { ready with trace := ready.trace.polled .none (.pkt [0x02, Config.cksum []]) }
  exact ⟨_, u, ready_poll, rfl, by simp, by simp, hu, Nat.le_refl 2⟩

theorem witness_CauseTraceIsInvisible : ∃ t, exec .poll ready = .next t := ⟨_, ready_poll⟩

theorem witness_SinkStallHangs : ∃ t,
    ({ sending with sinkReady := false } : State).txq ≠ [] ∧
    ({ sending with sinkReady := false } : State).sinkReady = false ∧
    execAll [.txByte, .poll, .rx 9, .tick 5] { sending with sinkReady := false } = .next t := by
  obtain ⟨t, ht⟩ := execAll_total [.txByte, .poll, .rx 9, .tick 5] { sending with sinkReady := false }
  exact ⟨t, List.cons_ne_nil _ _, rfl, ht⟩

theorem witness_ThreeTxBytesDrain : sending.Inv ∧ sending.sinkReady = true := ⟨sending_inv _, rfl⟩

/-- A READY frame of which one byte has left. -/
theorem witness_WireStaysWholeFrames :
    let s : State := { sending with
      trace := { sending.trace with wire := [0x03] }, inputs := [.edge (quiet 1) false] }
    s.FramedWire ∧ s.NoResetNext ∧ ∃ t, step s = .next t ∧ t.trace.wire = [0x03, Config.cksum [0x02]] := by
  refine ⟨⟨[.ready], by decide, rfl⟩, ?_, ?_⟩
  · intro e c r h; cases h; rfl
  · exact ⟨_, rfl, rfl⟩

theorem witness_OneAttemptStaysResident :
    sending.Inv ∧ sending.Resident acceptedAttempt ∧ ∃ t, exec (.rx 0xB4) sending = .next t ∧ t.cnt = 2 :=
  ⟨sending_inv _, sending_resident, _, rfl, rfl⟩

theorem witness_RoundTripDeliversThePacket :
    idle.en = true ∧ idle.rst = .p1 ∧ idle.cnt = 0#9 ∧ idle.txq = [] ∧ idle.sinkReady = true ∧
    (0x03 : Byte).toNat = ([] : List Byte).length + 3 ∧
    (0xFF : Byte).toNat = (List.replicate 252 (0x10 : Byte)).length + 3 := by
  refine ⟨rfl, rfl, rfl, rfl, rfl, rfl, ?_⟩
  rw [List.length_replicate]; rfl

/-- The state is `idle`, as in the witness before; here the bytes. -/
theorem witness_CorruptPrologueIsNakked : (0xEE : Byte) ≠ ~~~ 0x10 := by decide

/-- The state is `idle`; here the two sides of the deadline. -/
theorem witness_PrologueTimeoutFromTheFirstByte : idle.settings.timeoutMs < 21#32 ∧ 20#32 ≤ idle.settings.timeoutMs := by decide

theorem witness_BodyDeadlineIsNotExtended :
    (block .body 1 [0x02]).en = true ∧ (block .body 1 [0x02]).rst = .body ∧ (block .body 1 [0x02]).txq = [] ∧
    (block .body 1 [0x02]).cnt ≠ 0#9 ∧
    (block .body 1 [0x02]).cnt.toNat + ([] : List Byte).length < ((block .body 1 [0x02]).bufAt 0).toNat ∧
    (block .body 252 [0xFF]).cnt.toNat + ([1, 2] : List Byte).length < ((block .body 252 [0xFF]).bufAt 0).toNat := by
  decide

/-- A POLL offered to a ready port, and to one whose frame still drains. -/
theorem witness_CommandAcceptance :
    let e : Edge := { quiet 0 with cmd := some 0b01 }
    (e.rstN = true ∧ e.cmd = some 0b01#2) ∧ ((edged idle e false).outputs true).cmdReady = true ∧
    ((edged sending e false).outputs true).cmdReady = false := ⟨⟨rfl, rfl⟩, rfl, rfl⟩

theorem witness_BytesHeldDuringACommand :
    let s := edged (flying 0b01 (block .p2 1 [5])) { quiet 0 with rx := some 9 } false
    s.inputs = [.edge { quiet 0 with rx := some 9 } false] ∧ s.port.inFlight = some 0b01#2 := ⟨rfl, rfl⟩

/-- ACKPKT with two held bytes and one of the edge: the command leaves `EN = 1`, `CNT = 0`. -/
theorem witness_CommitThenHeldBytes :
    let e : Edge := { quiet 0 with rx := some 9 }
    let s := edged { flying 0b10 (block .p2 1 [5]) with
      port := { State.reset.port with inFlight := some 0b10, held := [7, 8] } } e true
    s.inputs = [.edge e true] ∧ e.rstN = true ∧ s.port.inFlight = some 0b10#2 ∧ s.txq = [] ∧
    ∃ u, exec (commandOf 0b10) { s with
        inputs := [], sinkReady := e.txReady, rdData := s.bufAt e.rdAddr.toNat, now := e.nowMs } = .next u ∧
      u.en = true ∧ u.cnt = 0#9 ∧ u.cnt.toNat + (s.port.held ++ e.rx.toList).length ≤ 256 :=
  ⟨rfl, rfl, rfl, rfl, _, rfl, rfl, rfl, by decide⟩

/-- BEGIN and ACKPKT with no byte held and with 255 held; a POLL that raises E1 at the edge's time, not before it. -/
theorem witness_ByteInTheResetCycleStartsTheAttempt :
    let e : Edge := { quiet 21 with rx := some 9 }
    (∀ (op : CmdOp) (n : Nat), n = 0 ∨ n = 255 → op = 0b00#2 ∨ op = 0b10#2 →
      let s := edged { ready with
        port := { State.reset.port with inFlight := some op, held := List.replicate n 7 } } e true
      s.inputs = [.edge e true] ∧ e.rstN = true ∧ s.port.inFlight = some op ∧ s.txq = [] ∧ e.rx = some 9#8 ∧
      s.port.held.length < 256 ∧ (op = 0b00#2 ∨ (op = 0b10#2 ∧ s.en = true))) ∧
    let s := edged (flying 0b01 (block .p2 1 [5])) e true
    s.inputs = [.edge e true] ∧ s.port.inFlight = some 0b01#2 ∧ s.txq = [] ∧ s.port.held = [] ∧
    (State.pollCase { s with now := e.nowMs } Config.defaults.params).isError = true ∧
    (s.pollCase Config.defaults.params).isError = false := by
  refine ⟨fun op n hn h => ⟨rfl, rfl, rfl, rfl, rfl, ?_, h.imp id fun h => ⟨h, rfl⟩⟩, rfl, rfl, rfl, rfl, rfl, rfl⟩
  show (List.replicate n (7 : Byte)).length < 256
  rw [List.length_replicate]; omega

/-- In the second state one byte is queued, and the edge takes it. -/
theorem witness_CommandCompletion :
    let r := [Input.edge (quiet 0) false, .edge (quiet 1) false]
    let p : PortRegs := { State.reset.port with rspWait := some .nopkt }
    let s : State := { idle with port := p, inputs := r }
    let s' : State := { block .p1 0 [] with txq := [0x02], port := p, inputs := r }
    (s.inputs = r ∧ s.port.rspWait = some .nopkt ∧ s.port.inFlight = none ∧ s.txq = []) ∧
    s'.inputs = r ∧ s'.port.rspWait = some .nopkt ∧ s'.port.inFlight = none ∧ s'.txq ≠ [] ∧ (quiet 0).txReady = true :=
  ⟨⟨rfl, rfl, rfl, rfl⟩, rfl, rfl, rfl, List.cons_ne_nil _ _, rfl⟩

/-- An idle block and one that drains, each with a byte, a new time, an address and a command at its ports. -/
theorem witness_EdgeTakesItsInputPorts :
    let e : Edge := { rstN := true, nowMs := 9, rx := some 5, cmd := some 0b01, txReady := true, rdAddr := 255 }
    ((edged idle e false).inputs = [.edge e false] ∧ (edged idle e false).port.inFlight = none) ∧
    ((edged sending (quiet 9) true).inputs = [.edge (quiet 9) true] ∧
      (edged sending (quiet 9) true).port.inFlight = none ∧ (quiet 9).rx = none ∧ (quiet 9).cmd = none) ∧
    e.rstN = true ∧ e.rx = some 5#8 ∧ (quiet 9).rstN = true :=
  ⟨⟨rfl, rfl⟩, ⟨rfl, rfl, rfl, rfl⟩, rfl, rfl, rfl⟩

/-- An edge on a draining block: the byte is stored with the edge's time, and the READ port shows its address. -/
theorem test_edge_ports :
    let t := after { block .p1 0 [0x33] with
      txq := [0x02], inputs := [.edge { quiet 300 with rx := some 0x07 } false] }
    t.cnt = 1 ∧ t.bufAt 0 = 0x07 ∧ t.ts = 300 ∧ t.now = 300 ∧ t.rdData = 0x33 ∧ t.txq = [] := by decide

theorem witness_TxEdge : ∀ b : Bool,
    let e : Edge := { quiet 0 with txReady := b }
    (edged sending e false).inputs = [.edge e false] ∧ e.rstN = true ∧
    ((edged sending e false).outputs true).tx = some (Config.cksum [0x02]) ∧ e.txReady = b := by
  intro b; exact ⟨rfl, rfl, rfl, rfl⟩

end Sys2Proof.Tests.Slice0
end

/-! ## Scope (00_scope.md): schedules of port words, runs that never stop, and the TX agent -/

namespace Sys2Proof

/-- The decoder reads back the word the encoder writes, instruction by instruction (R47, R50 to R53). -/
theorem decode_encode (i : Instr) : decode (encode i) = .ok i := by
  cases i with
  | beginCmd => rfl
  | poll => rfl
  | ackpkt => rfl
  | rsvd => rfl
  | txByte => rfl
  | tick d => exact decode_clock d
  | rx b =>
    have hfit : (encode (.rx b)).wf = true := Laws.EncodeFits.rx b
    rw [decode, if_pos hfit]
    simp [encode]
  | read a =>
    have hfit : (encode (.read a)).wf = true := Laws.EncodeFits.read a
    rw [decode, if_pos hfit]
    simp [encode]

namespace Machine

/-! ### One step -/

/-- A step whose next input is a port word that decodes runs the decoded instruction without that input (R2). -/
theorem step_word {s : State} {w : PortWord} {i : Instr} {rest : List Input} (hin : s.inputs = .word w :: rest)
    (hw : decode w = .ok i) : step s = exec i { s with inputs := rest } := by
  unfold step; rw [hin]; simp only [hw]

/-- What `decodeTableWord` reads is what the decoder reads of the table word's port word. -/
theorem decode_tableWord {nbits w : Nat} {i : Instr} (h : decodeTableWord nbits w = some i) :
    decode (tableWord nbits w) = .ok i := by
  unfold decodeTableWord at h
  split at h
  · cases h; assumption
  · cases h

/-- A list of steps keeps the parameters and the coming inputs. -/
theorem execAll_settings_inputs {is : List Instr} {s t : State} (h : execAll is s = .next t) :
    t.settings = s.settings ∧ t.inputs = s.inputs :=
  execAll_keeps (P := fun u => u.settings = s.settings ∧ u.inputs = s.inputs)
    (fun _ _ _ _ hu hv => ⟨(exec_settings hv).trans hu.1, (exec_inputs hv).trans hu.2⟩) ⟨rfl, rfl⟩ h

/-- A clock edge, a resetting one too, keeps the parameters and the coming inputs (R5, R126). -/
theorem clockEdge_settings_inputs {e : Edge} {commit : Bool} {s t : State} (h : clockEdge e commit s = .next t) :
    t.settings = s.settings ∧ t.inputs = s.inputs := by
  cases hr : e.rstN with
  | false =>
    obtain ⟨u, hu, rfl⟩ := clockEdge_reset hr h
    obtain ⟨hset, hinp⟩ := execAll_settings_inputs hu
    exact ⟨hset, hinp⟩
  | true =>
    obtain ⟨u, hu, rfl⟩ := clockEdge_run hr h
    obtain ⟨hset, hinp⟩ := execAll_settings_inputs hu
    exact ⟨hset, hinp⟩

/-- A step keeps the parameters (R5, R63) and takes the first of the inputs. -/
theorem step_settings_inputs {s t : State} (h : step s = .next t) :
    t.settings = s.settings ∧ t.inputs = s.inputs.tail := by
  rcases step_cases h with ⟨hin, rfl⟩ | ⟨_, _, _, hin, _, hx⟩ | ⟨_, _, hin, rfl⟩ | ⟨_, _, _, hin, hx⟩
  · exact ⟨rfl, by rw [hin]; rfl⟩
  · have hset := exec_settings hx
    exact ⟨hset, by rw [exec_inputs hx, hin]; rfl⟩
  · exact ⟨rfl, by rw [hin]; rfl⟩
  · obtain ⟨hset, hinp⟩ := clockEdge_settings_inputs hx
    exact ⟨hset, by rw [hinp, hin]; rfl⟩

/-- Only a port word that does not fit can stop a step (R8). -/
theorem step_total {s : State} (hfit : s.WordsFit) : ∃ t, step s = .next t := by
  cases hin : s.inputs with
  | nil => exact ⟨s, by unfold step; rw [hin]⟩
  | cons x rest =>
    cases x with
    | word w =>
      obtain ⟨i, hi⟩ := decode_total (hfit w (by simp [hin]))
      rw [step_word hin hi]
      exact exec_total i _
    | sink b => exact ⟨_, by unfold step; rw [hin]⟩
    | edge e commit =>
      rw [step_edge hin]
      exact clockEdge_total e commit _

/-- The words still to come after a step fit their ports if those before it did. -/
theorem step_wordsFit {s t : State} (hfit : s.WordsFit) (h : step s = .next t) : t.WordsFit := by
  intro w hw
  rw [(step_settings_inputs h).2] at hw
  exact hfit w (List.mem_of_mem_tail hw)

/-! ### The TX agent -/

/-- TX_BYTE where it is not enabled (R8, R103, log 2). -/
theorem exec_txByte_held {s : State} (h : s.txq = [] ∨ s.sinkReady = false) : exec .txByte s = .next s := by
  have hdis : s.txEnabled = false := by rcases h with h | h <;> simp [State.txEnabled, h]
  simp [exec_txByte, hdis]

/-- TX_BYTE where it is enabled: the head of `TXQ` leaves on the wire (R103). -/
theorem exec_txByte_sends {s : State} {b : Byte} {rest : List Byte} (hq : s.txq = b :: rest)
    (hr : s.sinkReady = true) :
    exec .txByte s = .next { s with txq := rest, trace := { s.trace with wire := s.trace.wire ++ [b] } } := by
  simp [exec_txByte, State.txEnabled, State.popTx, hq, hr]

/-- With the sink ready, `n` TX_BYTE steps send the first `n` bytes of `TXQ`, or all of them if there are fewer. -/
theorem execAll_replicate_txByte (n : Nat) {s : State} (hr : s.sinkReady = true) :
    execAll (List.replicate n .txByte) s = .next { s with
      txq := s.txq.drop n, trace := { s.trace with wire := s.trace.wire ++ s.txq.take n } } := by
  induction n generalizing s with
  | zero => simp
  | succ n ih =>
    cases hq : s.txq with
    | nil =>
      rw [List.replicate_succ, execAll_cons_of_next (exec_txByte_held (.inl hq)), ih hr]
      simp [hq]
    | cons b rest =>
      rw [List.replicate_succ, execAll_cons_of_next (exec_txByte_sends hq hr), ih (by exact hr)]
      simp

/-- "`TXQ` holds at most three bytes" (R28): it is the rest of one control frame. -/
theorem State.Inv.txq_length_le {s : State} (h : s.Inv) : s.txq.length ≤ 3 := by
  obtain ⟨t, _, hsuf⟩ := h.oneFrame
  exact hsuf.length_le

/-! ### The obligations of 00_scope.md -/

/-- Settles O8, by induction on the schedule: the decoder reads back each encoded word, and a step neither reads nor
writes the words that follow it. -/
theorem scheduleRunsItsInstructions : Obligations.ScheduleRunsItsInstructions := by
  unfold Obligations.ScheduleRunsItsInstructions
  intro is
  induction is with
  | nil =>
    intro s rest hin
    obtain rfl : s.inputs = rest := hin
    rfl
  | cons i is ih =>
    intro s rest hin
    obtain ⟨u, hu⟩ := exec_total i { s with inputs := rest }
    have hstep := (step_word hin (decode_encode i)).trans
      (exec_with_inputs (s := { s with inputs := rest }) i (is.map (fun j => Input.word (encode j)) ++ rest) hu)
    have hrest : u.inputs = rest := exec_inputs hu
    rw [List.length_cons, run_of_step _ hstep, ih _ rest rfl, execAll_cons_of_next hu, ← hrest]

/-- Settles O9, by induction on the number of steps: each step answers, keeps the parameters, and leaves words that
fit. -/
theorem wellFormedInputsNeverStop : Obligations.WellFormedInputsNeverStop := by
  unfold Obligations.WellFormedInputsNeverStop
  intro n
  induction n with
  | zero => intro s _; exact ⟨s, run_zero s, rfl⟩
  | succ n ih =>
    intro s hfit
    obtain ⟨u, hu⟩ := step_total hfit
    obtain ⟨t, hrun, hset⟩ := ih u (step_wordsFit hfit hu)
    exact ⟨t, (run_of_step n hu).trans hrun, hset.trans (step_settings_inputs hu).1⟩

/-- Settles O47: three TX_BYTE steps send the first three bytes of `TXQ`, and it holds no more than three. -/
theorem threeTxBytesDrain : Obligations.ThreeTxBytesDrain := by
  unfold Obligations.ThreeTxBytesDrain
  intro s hinv hr
  have hlen := hinv.txq_length_le
  have hdrain := execAll_replicate_txByte 3 hr
  rwa [List.drop_eq_nil_of_le hlen, List.take_of_length_le hlen] at hdrain

/-- Settles O4: the frames hold for every settings value; the defaults are one closed record. -/
theorem controlFramesAndDefaults : Obligations.ControlFramesAndDefaults := by
  unfold Obligations.ControlFramesAndDefaults
  exact ⟨fun c => ⟨controlFrame_ready c, controlFrame_nak c, controlFrame_alive c⟩, rfl, by decide, rfl, rfl⟩

/-- Settles O6: a placed table word is the next port word, and it is taken off the inputs before it runs. -/
theorem stepRunsTheDecodedInstruction : Obligations.StepRunsTheDecodedInstruction := by
  unfold Obligations.StepRunsTheDecodedInstruction
  exact ⟨fun _ _ _ _ hin hw => step_word hin hw, fun _ _ _ _ hw => step_word rfl (decode_tableWord hw)⟩

/-- Settles O10: each register at the value that R126 gives it. -/
theorem resetRegisters : Obligations.ResetRegisters := by
  unfold Obligations.ResetRegisters
  exact fun _ => ⟨rfl, rfl, rfl, rfl, rfl, rfl⟩

/-- Settles O22: each of the four commands is held by `State.asCommand` (R92). -/
theorem commandsHeldWhileFrameQueued : Obligations.CommandsHeldWhileFrameQueued := by
  unfold Obligations.CommandsHeldWhileFrameQueued
  intro s i hq hi
  simp only [List.mem_cons, List.not_mem_nil, or_false] at hi
  rcases hi with rfl | rfl | rfl | rfl
  · rw [exec_beginCmd, State.asCommand_held _ hq]
  · rw [exec_poll, State.asCommand_held _ hq]
  · rw [exec_ackpkt, State.asCommand_held _ hq]
  · rw [exec_rsvd, State.asCommand_held _ hq]

/-- Settles O24, by the two cases of TX_BYTE's enable. -/
theorem txByteCompletes : Obligations.TxByteCompletes := by
  unfold Obligations.TxByteCompletes
  exact fun _ => ⟨fun _ _ hq hr => exec_txByte_sends hq hr, exec_txByte_held⟩

end Machine
end Sys2Proof

/-! ## State (10_state.md): the invariants, the resident attempt, the register table, and the ports -/

namespace Sys2Proof.Machine

/-! ### RX_BYTE, POLL and ACKPKT in all their cases -/

/-- A byte that RX_BYTE drops changes nothing (R70, R71). -/
theorem exec_rx_dropped {s : State} (b : Byte) (h : s.en = false ∨ s.cnt = 256#9) : exec (.rx b) s = .next s := by
  rw [exec_rx]
  rcases h with hen | hfull
  · rw [if_pos hen]
  · rw [if_pos hfull, ite_self]

/-- A byte that RX_BYTE takes is stored (R68). -/
theorem exec_rx_stores {s : State} (b : Byte) (hen : s.en = true) (hroom : s.cnt ≠ 256#9) :
    exec (.rx b) s = .next (s.store b) := by
  rw [exec_rx, if_neg (by simp [hen]), if_neg hroom]

/-- What a POLL that runs leaves alone in every case. -/
theorem State.poll_frame (s : State) (p : Params) :
    (s.poll p).en = s.en ∧ (s.poll p).ts = s.ts ∧ (s.poll p).now = s.now ∧ (s.poll p).sinkReady = s.sinkReady ∧
      (s.poll p).rdData = s.rdData ∧ (s.poll p).port = s.port ∧ (s.poll p).trace.wire = s.trace.wire := by
  unfold State.poll
  generalize s.pollCase p = c
  cases c <;> exact ⟨rfl, rfl, rfl, rfl, rfl, rfl, rfl⟩

/-- An ACKPKT that runs, whatever `EN` is, writes `CNT`, `RST`, `TXQ` and the response trace at most (R95, R97). -/
theorem State.ackpkt_frame (s : State) (p : Params) :
    s.ackpkt p = { s with
      cnt := (s.ackpkt p).cnt, rst := (s.ackpkt p).rst, txq := (s.ackpkt p).txq
      trace := s.trace.answered .nopkt } := by
  unfold State.ackpkt
  split <;> rfl

/-! ### The port side (R30, R43) -/

/-- `cmd_ready` is 1 exactly when nothing is in progress and `rst_n = 1` (R30). -/
theorem State.cmdReady_iff {s : State} :
    s.cmdReady true = true ↔ s.port.inFlight = none ∧ s.port.rspWait = none ∧ s.txq = [] := by
  simp [State.cmdReady, State.inProgress, and_assoc]

/-- While a command is in flight `cmd_ready` is 0 (R30). -/
theorem State.cmdReady_of_inFlight {s : State} (h : s.port.inFlight.isSome) (rstN : Bool) :
    s.cmdReady rstN = false := by
  simp [State.cmdReady, State.inProgress, h]

/-- While a response waits `cmd_ready` is 0 (R30). -/
theorem State.cmdReady_of_rspWait {s : State} (h : s.port.rspWait.isSome) (rstN : Bool) :
    s.cmdReady rstN = false := by
  simp [State.cmdReady, State.inProgress, h]

/-- No command in flight, none commits. -/
theorem State.commitOp_of_idle {s : State} (h : s.port.inFlight = none) (commit : Bool) : s.commitOp commit = none := by
  simp [State.commitOp, h]

/-- A queued frame holds every commit (R92). -/
theorem State.commitOp_of_queued {s : State} (h : s.txq ≠ []) (commit : Bool) : s.commitOp commit = none := by
  simp [State.commitOp, State.commandEnabled, h]

/-- The port side after a commit (R43). -/
theorem State.portAfter_commit {s : State} {e : Edge} {commit : Bool} {op : CmdOp} (hc : s.commitOp commit = some op)
    (rs : List Response) :
    s.portAfter e commit rs = { inFlight := none, held := [], rspWait := rs.getLast?, rspOut := none } := by
  simp only [State.portAfter, hc]

/-- The port side where no command commits: it may accept one, hold a byte, or complete one (R30, R43). -/
theorem State.portAfter_no_commit {s : State} {e : Edge} {commit : Bool} (hc : s.commitOp commit = none)
    (rs : List Response) :
    s.portAfter e commit rs =
      { inFlight := if s.cmdReady e.rstN && e.cmd.isSome then e.cmd else s.port.inFlight
        held := if s.port.inFlight.isSome then s.port.held ++ e.rx.toList else s.port.held
        rspWait := if s.completes then none else s.port.rspWait
        rspOut := if s.completes then s.port.rspWait else none } := by
  simp only [State.portAfter, hc]

/-! ### The invariant (R23, R24, R27, R28, R32, R63) -/

/-- The invariant of a reset block whose buffer is canonical (R126). -/
theorem State.Inv.of_reset {s : State} (hcfg : s.settings.wf = true) (hbuf : s.buf.wf) (hcnt : s.cnt = 0#9)
    (hrst : s.rst = .p1) (hq : s.txq = []) (hheld : s.port.held = []) (hwait : s.port.rspWait = none) : s.Inv where
  tagsDistinct := hcfg
  bufCanonical := hbuf
  cntInRange := by simp [hcnt]
  written := by simp [hcnt]
  sequencing := fun h => absurd hrst h
  disabledIdle := fun _ => ⟨hcnt, hrst, hq⟩
  oneFrame := ⟨.ready, by simp [controlTags], hq ▸ List.nil_suffix⟩
  heldInFlight := fun h => absurd hheld h
  oneCommand := by simp [hwait]

/-- An enabled `RESET_RX()` that queues a control frame (BEGIN, ACKPKT, every NAK) keeps the invariant. -/
theorem State.Inv.of_resetRx_send {s t : State} {tag : Tag} (h : s.Inv) (hcfg : t.settings = s.settings)
    (hbuf : t.buf = s.buf) (hport : t.port = s.port) (hen : t.en = true) (hcnt : t.cnt = 0#9) (hrst : t.rst = .p1)
    (htag : tag ∈ controlTags) (hq : t.txq = controlFrame s.settings.params tag) : t.Inv where
  tagsDistinct := hcfg ▸ h.tagsDistinct
  bufCanonical := hbuf ▸ h.bufCanonical
  cntInRange := by simp [hcnt]
  written := by simp [hcnt]
  sequencing := fun hne => absurd hrst hne
  disabledIdle := by simp [hen]
  oneFrame := ⟨tag, htag, by rw [hq, hcfg]⟩
  heldInFlight := hport ▸ h.heldInFlight
  oneCommand := hport ▸ h.oneCommand

/-- R23 where the buffer is not full. -/
theorem State.Inv.cnt_lt {s : State} (h : s.Inv) (hroom : s.cnt ≠ 256#9) : s.cnt.toNat < Config.cap :=
  lt_of_le_of_ne h.cntInRange fun heq => hroom (BitVec.eq_of_toNat_eq heq)

/-- Storing a byte where there is room keeps the invariant (R23, R33, R68). -/
theorem State.Inv.store {s : State} (h : s.Inv) (b : Byte) (hen : s.en = true) (hroom : s.cnt ≠ 256#9) :
    (s.store b).Inv := by
  have hlt := h.cnt_lt hroom
  have hcnt := State.store_cnt_toNat b hlt
  exact {
    tagsDistinct := h.tagsDistinct
    bufCanonical := Memory.wf_write h.bufCanonical s.cursor_lt
    cntInRange := by rw [hcnt]; exact hlt
    written := by
      intro i hi
      rw [hcnt] at hi
      rw [State.store_buf, s.cursor_eq hlt, Memory.read_write]
      split
      · rfl
      · exact h.written i (by omega)
    sequencing := fun _ hz => by rw [hz] at hcnt; cases hcnt
    disabledIdle := by simp [hen]
    oneFrame := h.oneFrame
    heldInFlight := h.heldInFlight
    oneCommand := h.oneCommand }

/-- A queued byte that leaves keeps the rest of its frame queued (R28, R103). -/
theorem State.Inv.popTx {s : State} (h : s.Inv) : s.popTx.Inv where
  tagsDistinct := by simpa using h.tagsDistinct
  bufCanonical := by simpa using h.bufCanonical
  cntInRange := by simpa using h.cntInRange
  written := by simpa using h.written
  sequencing := by simpa using h.sequencing
  disabledIdle hen := by
    obtain ⟨hcnt, hrst, hq⟩ := h.disabledIdle (by simpa using hen)
    simp [hcnt, hrst, hq]
  oneFrame := by
    obtain ⟨tag, htag, hsuf⟩ := h.oneFrame
    exact ⟨tag, htag, by simpa using (List.tail_suffix _).trans hsuf⟩
  heldInFlight := by simpa using h.heldInFlight
  oneCommand := by simpa using h.oneCommand

/-- A BEGIN that runs keeps the invariant (R93). -/
theorem State.Inv.begin {s : State} (h : s.Inv) (hq : s.txq = []) : (s.begin s.settings.params).Inv :=
  h.of_resetRx_send (tag := .alive) rfl rfl rfl rfl rfl rfl (by simp [controlTags]) (by simp [State.begin_eq, hq])

/-- Adding to the response trace keeps the invariant. -/
theorem State.Inv.respond {s : State} (h : s.Inv) (r : Response) : (s.respond r).Inv := { h with }

/-- An ACKPKT that runs keeps the invariant (R95, R97). -/
theorem State.Inv.ackpkt {s : State} (h : s.Inv) (hq : s.txq = []) : (s.ackpkt s.settings.params).Inv := by
  cases hen : s.en with
  | false => exact State.ackpkt_disabled _ hen ▸ h.respond .nopkt
  | true =>
    rw [State.ackpkt_enabled _ hen]
    exact h.of_resetRx_send (tag := .ready) rfl rfl rfl hen rfl rfl (by simp [controlTags]) (by simp [hq])

/-- The prologue accept keeps the invariant: the length byte stays, and the READY frame is queued (R80). -/
theorem State.Inv.accept {s : State} (h : s.Inv) (hq : s.txq = []) (hen : s.en = true) (hcnt : s.cnt = 2#9)
    (r : Response) :
    ((State.send { s with cnt := 1#9, rst := .body } s.settings.params .ready).pollReturn r).Inv where
  tagsDistinct := h.tagsDistinct
  bufCanonical := h.bufCanonical
  cntInRange := by simp [Config.cap]
  written i hi := h.written i (by simp [hcnt] at hi ⊢; omega)
  sequencing := by simp
  disabledIdle := by simp [hen]
  oneFrame := ⟨.ready, by simp [controlTags], by simp [hq]⟩
  heldInFlight := h.heldInFlight
  oneCommand := h.oneCommand

/-- A POLL that writes at most `RST` keeps the invariant, as long as `RST` leaves P1 only with a byte counted. -/
theorem State.Inv.pollReturn {s : State} (h : s.Inv) {q : RecvState} (hseq : q ≠ .p1 → s.cnt ≠ 0#9)
    (hdis : s.en = false → q = .p1) (r : Response) : (State.pollReturn { s with rst := q } r).Inv :=
  { h with
    sequencing := hseq
    disabledIdle := fun hen => by
      obtain ⟨hcnt, -, hq⟩ := h.disabledIdle hen
      exact ⟨hcnt, hdis hen, hq⟩ }

/-- A POLL that runs keeps the invariant, by the three shapes of its effect. -/
theorem State.Inv.poll {s : State} (h : s.Inv) (hq : s.txq = []) : (s.poll s.settings.params).Inv := by
  rcases s.poll_shapes s.settings.params with ⟨herr, c, -, heq⟩ | ⟨hacc, heq⟩ | ⟨-, -, q, r, heq, hshape⟩
  · obtain ⟨hen, -, -⟩ := State.pollCase_error herr
    exact heq ▸ h.of_resetRx_send (tag := .nak) rfl rfl rfl hen rfl rfl (by simp [controlTags]) (by simp [hq])
  · obtain ⟨hen, -, hcnt, -⟩ := State.pollCase_accept hacc
    exact heq ▸ h.accept hq hen hcnt .nopkt
  · rw [heq]
    rcases hshape with rfl | ⟨hen, -, hcnt, rfl⟩ | ⟨-, -, rfl⟩
    · exact h.pollReturn h.sequencing (fun hen => (h.disabledIdle hen).2.1) r
    · exact h.pollReturn (fun _ => hcnt) (by simp [hen]) r
    · exact h.pollReturn (by simp) (fun _ => rfl) r

/-- Every instruction keeps the invariant. -/
theorem exec_inv {i : Instr} {s t : State} (h : s.Inv) (hx : exec i s = .next t) : t.Inv := by
  rcases exec_cases hx with rfl | ⟨-, hq, rfl⟩ | ⟨-, hq, rfl⟩ | ⟨-, hq, rfl⟩ | ⟨-, -, rfl⟩ |
    ⟨b, -, hen, hroom, rfl⟩ | ⟨-, -, -, rfl⟩ | ⟨_, -, rfl⟩ | ⟨_, -, rfl⟩
  · exact h
  · exact h.begin hq
  · exact h.poll hq
  · exact h.ackpkt hq
  · exact h.respond .nopkt
  · exact h.store b hen hroom
  · exact h.popTx
  · exact { h with }
  · exact { h with }

/-- A list of instructions keeps the invariant. -/
theorem execAll_inv {is : List Instr} {s t : State} (h : s.Inv) (hx : execAll is s = .next t) : t.Inv :=
  execAll_keeps (fun _ _ _ _ hu hv => exec_inv hu hv) h hx

/-- The port side that an edge leaves keeps the invariant: bytes are held, and one command at most is in progress. -/
theorem State.Inv.portAfter {s u : State} (h : s.Inv) (hu : u.Inv) (e : Edge) (commit : Bool) (rs : List Response) :
    State.Inv { u with port := s.portAfter e commit rs } := by
  cases hc : s.commitOp commit with
  | some op => exact { hu with
      heldInFlight := by simp [State.portAfter_commit hc]
      oneCommand := by simp [State.portAfter_commit hc] }
  | none =>
    rw [State.portAfter_no_commit hc]
    refine { hu with heldInFlight := fun hheld => ?_, oneCommand := fun hwait => ?_ }
    · have hfl : s.port.inFlight.isSome := by
        by_contra hfl
        exact hfl (h.heldInFlight (by simpa [hfl] using hheld))
      simpa [State.cmdReady_of_inFlight hfl] using hfl
    · have hwait : s.port.rspWait.isSome := by
        dsimp only at hwait
        split at hwait
        · cases hwait
        · exact hwait
      simpa [State.cmdReady_of_rspWait hwait] using h.oneCommand hwait

/-- A clock edge keeps the invariant; one with `rst_n = 0` does so whatever was in progress (R126). -/
theorem clockEdge_inv {e : Edge} {commit : Bool} {s t : State} (h : s.Inv) (hx : clockEdge e commit s = .next t) :
    t.Inv := by
  have hsink : State.Inv { s with sinkReady := e.txReady } := { h with }
  cases hr : e.rstN with
  | false =>
    obtain ⟨u, hu, rfl⟩ := clockEdge_reset hr hx
    have hinv := execAll_inv hsink hu
    exact .of_reset hinv.tagsDistinct hinv.bufCanonical rfl rfl rfl rfl rfl
  | true =>
    obtain ⟨u, hu, rfl⟩ := clockEdge_run hr hx
    exact h.portAfter (execAll_inv hsink hu) e commit _

/-- Settles O13: the kinds of input one by one; an instruction keeps the invariant in each of its shapes, and a clock
edge is a list of instructions and an update of the port side. -/
theorem stepKeepsInv : Obligations.StepKeepsInv := by
  unfold Obligations.StepKeepsInv
  intro s t h hx
  rcases step_cases hx with ⟨-, rfl⟩ | ⟨_, rest, _, -, -, hx⟩ | ⟨_, _, -, rfl⟩ | ⟨_, _, rest, -, hx⟩
  · exact h
  · exact exec_inv (s := { s with inputs := rest }) { h with } hx
  · exact { h with }
  · exact clockEdge_inv (s := { s with inputs := rest }) { h with } hx

/-! ### The resident attempt (R25, R26) -/

/-- Only `RST`, `CNT`, `TS` and `BUF` say which attempt is resident. -/
theorem State.Resident.congr {s t : State} {g : Attempt} (h : s.Resident g) (hrst : t.rst = s.rst)
    (hcnt : t.cnt = s.cnt) (hts : t.ts = s.ts) (hbuf : t.buf = s.buf) : t.Resident g where
  count := hcnt ▸ h.count
  cells := hbuf ▸ h.cells
  stamp := by rw [hcnt, hts]; exact h.stamp
  prologue := h.prologue
  inBody := hrst ▸ h.inBody

/-- After a `RESET_RX()` no byte is resident (R21). -/
theorem State.Resident.of_resetRx {s : State} (hcnt : s.cnt = 0#9) (hrst : s.rst = .p1) : s.Resident .fresh where
  count := by simp [hcnt, Attempt.kept, Attempt.fresh]
  cells := by simp [Attempt.kept, Attempt.fresh]
  stamp hne := absurd hcnt hne
  prologue := by simp [Attempt.fresh]
  inBody := by simp [hrst, Attempt.fresh]

/-- A byte joins the kept ones at the end, once the prologue of an accepted attempt is there. -/
theorem Attempt.kept_append (g : Attempt) (b : Byte) (at' : Option Time)
    (h : g.accepted = true → 2 ≤ g.bytes.length) :
    Attempt.kept { g with bytes := g.bytes ++ [b], firstAt := at' } = g.kept ++ [b] := by
  cases hacc : g.accepted with
  | false => simp [Attempt.kept, hacc]
  | true =>
    have hlen := h hacc
    simp only [Attempt.kept, hacc, if_true, List.append_assoc]
    rw [List.take_append_of_le_length (by omega), List.drop_append_of_le_length hlen]

/-- An attempt is accepted at most once: the accept is found outside BODY (R26). -/
theorem State.Resident.not_accepted {s : State} {g : Attempt} (h : s.Resident g) (hne : s.rst ≠ .body) :
    g.accepted = false := by
  simpa using fun hacc => hne (h.inBody.2 hacc)

/-- A stored byte joins the attempt, and stamps it if it is the first (R25, R68, R69). -/
theorem State.Resident.store {s : State} {g : Attempt} (hinv : s.Inv) (h : s.Resident g) (b : Byte)
    (hroom : s.cnt ≠ 256#9) :
    (s.store b).Resident
      { g with bytes := g.bytes ++ [b], firstAt := if s.cnt = 0#9 then some s.now else g.firstAt } := by
  have hlt := hinv.cnt_lt hroom
  have hkept := g.kept_append b (if s.cnt = 0#9 then some s.now else g.firstAt) h.prologue
  exact {
    count := by rw [State.store_cnt_toNat b hlt, hkept, h.count]; simp
    cells := by
      intro i hi
      rw [hkept] at hi ⊢
      rw [State.store_buf, s.cursor_eq hlt, h.count, Memory.read_write]
      split
      · simp [*]
      · rw [List.length_append, List.length_singleton] at hi
        rw [h.cells i (by omega), List.getElem?_append_left (by omega)]
    stamp := by
      intro _
      rw [State.store_ts]
      split
      · rfl
      · exact h.stamp ‹_›
    prologue := fun hacc => by have := h.prologue hacc; simp; omega
    inBody := h.inBody }

/-- The accept takes the complement byte out of the buffer and marks the attempt (R26, R80). -/
theorem State.Resident.accept {s : State} {g : Attempt} (h : s.Resident g) (hrst : s.rst = .p2) (hcnt : s.cnt = 2#9)
    (p : Params) (r : Response) :
    ((State.send { s with cnt := 1#9, rst := .body } p .ready).pollReturn r).Resident { g with accepted := true } := by
  have hkept : g.kept = g.bytes := by simp [Attempt.kept, h.not_accepted (by simp [hrst])]
  have hlen : g.bytes.length = 2 := by rw [← hkept, ← h.count, hcnt]; rfl
  have hkept' : Attempt.kept { g with accepted := true } = g.bytes.take 1 := by
    simp [Attempt.kept, List.drop_eq_nil_of_le, hlen]
  exact {
    count := by simp [hkept', hlen]
    cells := by
      intro i hi
      rw [hkept'] at hi ⊢
      rw [List.length_take] at hi
      rw [List.getElem?_take_of_lt (by omega), ← hkept]
      exact h.cells i (by rw [hkept]; omega)
    stamp := fun _ => h.stamp (by simp [hcnt])
    prologue := fun _ => hlen.ge
    inBody := by simp }

/-- What a POLL that runs does to the attempt: an error ends it, the accept marks it, no other case touches it. -/
theorem State.Resident.poll {s : State} {g : Attempt} (hinv : s.Inv) (h : s.Resident g) (hq : s.txq = []) :
    (s.poll s.settings.params).Resident (g.after .poll s) := by
  simp only [Attempt.after, hq, if_true]
  rcases s.poll_shapes s.settings.params with ⟨herr, c, -, heq⟩ | ⟨hacc, heq⟩ | ⟨hnerr, hnacc, q, r, heq, hshape⟩
  · rw [if_pos herr, heq]
    exact .of_resetRx rfl rfl
  · obtain ⟨-, hrst, hcnt, -⟩ := State.pollCase_accept hacc
    rw [hacc, if_neg (by simp [PollCase.isError]), if_pos rfl, heq]
    exact h.accept hrst hcnt _ _
  · rw [if_neg (by simp [hnerr]), if_neg hnacc, heq]
    rcases hshape with rfl | ⟨-, hrst, -, rfl⟩ | ⟨hrst, hcnt, rfl⟩
    · exact h.congr rfl rfl rfl rfl
    · have hbody := h.not_accepted (by simp [hrst])
      exact { h with inBody := by simp [hbody] }
    · exact absurd hcnt (hinv.sequencing hrst)

/-- What each instruction does to the attempt. -/
theorem exec_resident {i : Instr} {s t : State} {g : Attempt} (hinv : s.Inv) (h : s.Resident g)
    (hx : exec i s = .next t) : t.Resident (g.after i s) := by
  cases i with
  | beginCmd =>
    cases hx
    by_cases hq : s.txq = []
    · simp only [Attempt.after, hq, if_true, State.asCommand_enabled]
      exact .of_resetRx rfl rfl
    · simpa [Attempt.after, hq] using h
  | poll =>
    cases hx
    by_cases hq : s.txq = []
    · rw [State.asCommand_enabled _ hq]
      exact h.poll hinv hq
    · simpa [Attempt.after, hq] using h
  | ackpkt =>
    cases hx
    by_cases hq : s.txq = []
    · rw [State.asCommand_enabled _ hq]
      cases hen : s.en with
      | false =>
        simp only [Attempt.after, State.ackpkt_disabled _ hen, hen, Bool.false_eq_true, and_false, if_false]
        exact h.congr rfl rfl rfl rfl
      | true =>
        simp only [Attempt.after, State.ackpkt_enabled _ hen, hen, hq, and_self, if_true]
        exact .of_resetRx rfl rfl
    · simpa [Attempt.after, hq] using h
  | rsvd =>
    cases hx
    by_cases hq : s.txq = []
    · rw [State.asCommand_enabled _ hq]
      exact h.congr rfl rfl rfl rfl
    · simpa [Attempt.after, hq] using h
  | rx b =>
    by_cases hdrop : s.en = false ∨ s.cnt = 256#9
    · cases (exec_rx_dropped b hdrop).symm.trans hx
      simpa only [Attempt.after, if_pos hdrop] using h
    · obtain ⟨hen, hroom⟩ := not_or.1 hdrop
      cases (exec_rx_stores b (by simpa using hen) hroom).symm.trans hx
      simpa only [Attempt.after, if_neg hdrop] using h.store hinv b hroom
  | txByte =>
    cases hx
    split
    · exact h.congr (by simp) (by simp) (by simp) (by simp)
    · exact h
  | read a => cases hx; exact h.congr rfl rfl rfl rfl
  | tick d => cases hx; exact h.congr rfl rfl rfl rfl

/-- Settles O49: each instruction takes the resident attempt to the one `Attempt.after` gives, and an accept finds P2,
where no attempt is accepted. -/
theorem oneAttemptStaysResident : Obligations.OneAttemptStaysResident := by
  unfold Obligations.OneAttemptStaysResident
  intro i s t g hinv hres hx
  refine ⟨exec_resident hinv hres hx, fun hacc => ?_⟩
  obtain ⟨-, hrst, -, -⟩ := State.pollCase_accept hacc
  exact hres.not_accepted (by simp [hrst])

/-- The invariants of a block right after reset, for any distinct tags (R26, R63, R104). -/
theorem State.resetWith_invariants {c : Settings} (hc : c.wf = true) :
    (State.resetWith c).Inv ∧ (State.resetWith c).FramedWire ∧ (State.resetWith c).Resident .fresh :=
  ⟨.of_reset hc Memory.wf_nil rfl rfl rfl rfl rfl, ⟨[], by simp, rfl⟩, .of_resetRx rfl rfl⟩

/-- Settles O12: the tags of the defaults are distinct too. -/
theorem invAtReset : Obligations.InvAtReset := by
  unfold Obligations.InvAtReset
  exact ⟨State.resetWith_invariants (by decide), fun _ => State.resetWith_invariants⟩

/-! ### The step function without a step kind -/

/-- Settles O7: the first two clauses are the arms of `step`; a word that does not fit has no instruction. -/
theorem stepWithoutAStepKind : Obligations.StepWithoutAStepKind := by
  unfold Obligations.StepWithoutAStepKind
  refine ⟨fun s hin => ?_, fun s b rest hin => ?_, fun s w rest hin hwide => ?_⟩
  · simp only [step, hin]
  · simp only [step, hin]
  · have hbad : w.wf = false := by simpa [PortWord.wf] using hwide
    simp only [step, hin, decode_error hbad]

/-! ### The register table (10_state.md section 2) and the cause trace (R110) -/

/-- Settles O37, by the inversion of `exec` and the frames of POLL and ACKPKT. -/
theorem onlyTheNamedStepsWrite : Obligations.OnlyTheNamedStepsWrite := by
  unfold Obligations.OnlyTheNamedStepsWrite
  intro i s t hx
  have hcfg := exec_settings hx
  have hin := exec_inputs hx
  rcases exec_cases hx with rfl | ⟨rfl, -, rfl⟩ | ⟨rfl, -, rfl⟩ | ⟨rfl, -, rfl⟩ | ⟨rfl, -, rfl⟩ |
    ⟨b, rfl, hen, -, rfl⟩ | ⟨rfl, -, -, rfl⟩ | ⟨_, rfl, rfl⟩ | ⟨_, rfl, rfl⟩
  · simp
  · simp [State.begin_eq]
  · obtain ⟨hen, hts, -, hsink, hrd, hport, hwire⟩ := s.poll_frame s.settings.params
    simp [hen, hts, hsink, hrd, hport, hwire, hcfg, hin]
  · rw [State.ackpkt_frame]
    simp [Trace.answered]
  · simp
  · have hts : (s.store b).ts ≠ s.ts → s.cnt = 0#9 ∧ (s.store b).ts = s.now := by
      rw [State.store_ts]
      split
      · exact fun _ => ⟨‹_›, rfl⟩
      · exact fun hne => absurd rfl hne
    simpa [hen] using hts
  · simp
  · simp
  · simp

/-- The state with another cause trace. -/
def State.withCauses (s : State) (cs : List Cause) : State := { s with trace := { s.trace with causes := cs } }

/-- `f` neither reads the cause trace nor writes anything that depends on it but the cause trace. -/
def CauseBlind (f : State → State) : Prop :=
  ∀ (s : State) (cs : List Cause), ∃ cs' : List Cause, f (s.withCauses cs) = (f s).withCauses cs'

/-- The identity, which is what a step that is not enabled does. -/
theorem CauseBlind.id : CauseBlind fun s => s := fun _ cs => ⟨cs, rfl⟩

/-- A choice between two blind updates, by a condition that reads no cause. -/
theorem CauseBlind.ite {c : State → Prop} [DecidablePred c] {f g : State → State} (hf : CauseBlind f)
    (hg : CauseBlind g) (hc : ∀ s cs, c (State.withCauses s cs) ↔ c s) :
    CauseBlind fun s => if c s then f s else g s := by
  intro s cs
  by_cases h : c s
  · simpa only [hc, h, if_true] using hf s cs
  · simpa only [hc, h, if_false] using hg s cs

/-- A command is blind to the causes if its run is: its enable reads `TXQ` alone (R92). -/
theorem CauseBlind.asCommand {f : State → State} (hf : CauseBlind f) : CauseBlind fun s => s.asCommand f :=
  hf.ite .id fun _ _ => Iff.rfl

/-- POLL is blind to the causes: its case reads no trace, and each case only adds a cause. -/
theorem causeBlind_poll : CauseBlind fun s => s.poll s.settings.params := by
  intro s cs
  have hcase : (s.withCauses cs).pollCase s.settings.params = s.pollCase s.settings.params := rfl
  show ∃ cs', (s.withCauses cs).runCase s.settings.params ((s.withCauses cs).pollCase s.settings.params)
    = (s.runCase s.settings.params (s.pollCase s.settings.params)).withCauses cs'
  rw [hcase]
  cases s.pollCase s.settings.params <;> exact ⟨_, rfl⟩

/-- What leaves the queue depends on no cause. -/
theorem causeBlind_popTx : CauseBlind State.popTx := by
  intro s cs
  refine ⟨cs, ?_⟩
  obtain ⟨_, _, _, _, _, txq, _, _, _, _, _, _, _⟩ := s
  cases txq <;> rfl

/-- Every instruction is an update that is blind to the causes. -/
theorem exec_causeBlind (i : Instr) : ∃ f : State → State, (∀ s, exec i s = .next (f s)) ∧ CauseBlind f := by
  cases i with
  | beginCmd => exact ⟨_, exec_beginCmd, CauseBlind.asCommand fun _ cs => ⟨cs, rfl⟩⟩
  | poll => exact ⟨_, exec_poll, causeBlind_poll.asCommand⟩
  | ackpkt =>
    have hreset : CauseBlind fun s => (s.resetRx.send s.settings.params .ready).respond .nopkt :=
      fun _ cs => ⟨cs, rfl⟩
    have hanswer : CauseBlind fun s => s.respond .nopkt := fun _ cs => ⟨cs, rfl⟩
    exact ⟨_, exec_ackpkt, (hreset.ite hanswer fun _ _ => Iff.rfl).asCommand⟩
  | rsvd => exact ⟨_, exec_rsvd, CauseBlind.asCommand fun _ cs => ⟨cs, rfl⟩⟩
  | rx b =>
    have hstore : CauseBlind fun s => s.store b := fun _ cs => ⟨cs, rfl⟩
    exact ⟨_, exec_rx b, CauseBlind.id.ite (CauseBlind.id.ite hstore fun _ _ => Iff.rfl) fun _ _ => Iff.rfl⟩
  | txByte => exact ⟨_, exec_txByte, causeBlind_popTx.ite .id fun _ _ => Iff.rfl⟩
  | read a => exact ⟨_, exec_read a, fun _ cs => ⟨cs, rfl⟩⟩
  | tick d => exact ⟨_, exec_tick d, fun _ cs => ⟨cs, rfl⟩⟩

/-- Settles O45: every instruction is blind to the causes, and the output ports read none. -/
theorem causeTraceIsInvisible : Obligations.CauseTraceIsInvisible := by
  unfold Obligations.CauseTraceIsInvisible
  intro i s t cs rstN hx
  obtain ⟨f, hf, hblind⟩ := exec_causeBlind i
  obtain ⟨cs', heq⟩ := hblind s cs
  cases (hf s).symm.trans hx
  exact ⟨⟨cs', (hf _).trans (congrArg _ heq)⟩, rfl⟩

/-! ### Clock edges (R29 to R31, R42, R43) -/

/-- A command is no READ and no TICK: it leaves the clock, the sink, the READ port and the coming inputs alone. -/
theorem exec_commandOf_bus {op : CmdOp} {s t : State} (hx : exec (commandOf op) s = .next t) :
    t.inputs = s.inputs ∧ t.now = s.now ∧ t.sinkReady = s.sinkReady ∧ t.rdData = s.rdData := by
  have hop : commandOf op ∈ [Instr.beginCmd, .poll, .ackpkt, .rsvd] := by
    unfold commandOf
    split <;> simp
  have hin := exec_inputs hx
  rcases exec_cases hx with rfl | ⟨-, -, rfl⟩ | ⟨-, -, rfl⟩ | ⟨-, -, rfl⟩ | ⟨-, -, rfl⟩ |
    ⟨_, hi, -⟩ | ⟨hi, -⟩ | ⟨_, hi, -⟩ | ⟨_, hi, -⟩
  · exact ⟨rfl, rfl, rfl, rfl⟩
  · exact ⟨rfl, rfl, rfl, rfl⟩
  · obtain ⟨-, -, hnow, hsink, hrd, -⟩ := s.poll_frame s.settings.params
    exact ⟨hin, hnow, hsink, hrd⟩
  · rw [State.ackpkt_frame]
    exact ⟨rfl, rfl, rfl, rfl⟩
  · exact ⟨rfl, rfl, rfl, rfl⟩
  all_goals simp [hi] at hop

/-- What every edge with `rst_n = 1` does with `now_ms`, `tx_ready` and `rd_addr` (R31, log 20). -/
theorem clockEdge_bus {e : Edge} {commit : Bool} {s t : State} (hr : e.rstN = true)
    (hx : clockEdge e commit s = .next t) :
    t.inputs = s.inputs ∧ t.now = e.nowMs ∧ t.sinkReady = e.txReady ∧ t.rdData = s.bufAt e.rdAddr.toNat := by
  cases hc : s.commitOp commit with
  | none =>
    obtain ⟨v, hv, rfl⟩ := clockEdge_no_commit hr hc hx
    rw [execAll_rx_frame _ hv]
    exact ⟨rfl, rfl, rfl, rfl⟩
  | some op =>
    obtain ⟨u, v, hu, hv, rfl⟩ := clockEdge_commit hr hc hx
    rw [execAll_rx_frame _ hv]
    exact exec_commandOf_bus hu

/-- A step that is an edge always answers. -/
theorem step_edge_total {s : State} {e : Edge} {commit : Bool} {rest : List Input}
    (hin : s.inputs = .edge e commit :: rest) : ∃ t, step s = .next t := by
  rw [step_edge hin]
  exact clockEdge_total e commit _

/-- A step that is an edge at which no command commits: the edge's bytes, then the port side (R30, R31). -/
theorem step_edge_no_commit {s : State} {e : Edge} {commit : Bool} {rest : List Input}
    (hin : s.inputs = .edge e commit :: rest) (hr : e.rstN = true) (hc : s.commitOp commit = none) :
    ∃ v, execAll ((s.edgeBytes e commit).map .rx) { s.afterTx e with inputs := rest } = .next v ∧
      step s = .next { v with port := s.portAfter e commit v.trace.responses } := by
  obtain ⟨t, ht⟩ := clockEdge_total e commit { s with inputs := rest }
  obtain ⟨v, hv, rfl⟩ := clockEdge_no_commit (s := { s with inputs := rest }) hr hc ht
  exact ⟨v, hv, (step_edge hin).trans ht⟩

/-- A step that is an edge at which a command commits: its step, then the bytes, then the port side (R42, R43). -/
theorem step_edge_commit {s : State} {e : Edge} {commit : Bool} {rest : List Input} {op : CmdOp}
    (hin : s.inputs = .edge e commit :: rest) (hr : e.rstN = true) (hc : s.commitOp commit = some op) :
    ∃ u v, exec (commandOf op) { s.afterTx e with inputs := rest } = .next u ∧
      execAll ((s.edgeBytes e commit).map .rx) u = .next v ∧
      step s = .next { v with port := s.portAfter e commit v.trace.responses } := by
  obtain ⟨t, ht⟩ := clockEdge_total e commit { s with inputs := rest }
  obtain ⟨u, v, hu, hv, rfl⟩ := clockEdge_commit (s := { s with inputs := rest }) hr hc ht
  exact ⟨u, v, hu, hv, (step_edge hin).trans ht⟩

/-- What an edge at which no command commits does to `TXQ`, the traces and the port side: its bytes touch none. -/
theorem step_edge_no_commit_frame {s : State} {e : Edge} {commit : Bool} {rest : List Input}
    (hin : s.inputs = .edge e commit :: rest) (hr : e.rstN = true) (hc : s.commitOp commit = none) :
    ∃ t, step s = .next t ∧ t.inputs = rest ∧ t.txq = (s.afterTx e).txq ∧ t.trace = (s.afterTx e).trace ∧
      t.port = s.portAfter e commit s.trace.responses := by
  obtain ⟨v, hv, hstep⟩ := step_edge_no_commit hin hr hc
  rw [execAll_rx_frame _ hv] at hstep
  exact ⟨_, hstep, rfl, rfl, rfl, rfl⟩

/-- Settles O54: with no command in flight the edge's only transactions after READ, TICK and TX_BYTE are its bytes. -/
theorem edgeTakesItsInputPorts : Obligations.EdgeTakesItsInputPorts := by
  unfold Obligations.EdgeTakesItsInputPorts
  intro s e commit rest hin hr
  obtain ⟨t, ht⟩ := step_edge_total hin
  obtain ⟨hrest, hnow, hsink, hrd⟩ := clockEdge_bus hr ((step_edge hin).symm.trans ht)
  refine ⟨t, ht, hrest, hnow, hsink, hrd, fun hidle => ?_⟩
  have hc := State.commitOp_of_idle hidle commit
  have hbytes : s.edgeBytes e commit = e.rx.toList := by simp [State.edgeBytes, hc, hidle]
  obtain ⟨v, hv, hstep⟩ := step_edge_no_commit hin hr hc
  cases ht.symm.trans hstep
  rw [hbytes] at hv
  refine ⟨fun hrx => ?_, fun b hrx => ?_, ?_, fun hcmd => ?_⟩
  · rw [hrx] at hv
    cases hv
    rfl
  · obtain ⟨w, hw⟩ := exec_total (.rx b) { s.afterTx e with inputs := rest }
    rw [hrx] at hv
    cases (execAll_cons_of_next hw).symm.trans hv
    exact ⟨v, hw, rfl⟩
  · simp [State.portAfter_no_commit hc, hidle]
  · simp [State.portAfter_no_commit hc, hcmd, hidle]

/-- Settles O55: acceptance needs an idle port, so no command commits and nothing is answered at that edge; else
`portAfter` keeps the command in flight or commits it. -/
theorem commandAcceptance : Obligations.CommandAcceptance := by
  unfold Obligations.CommandAcceptance
  intro s e commit rest op hin hr hcmd
  cases hc : s.commitOp commit with
  | none =>
    obtain ⟨t, hstep, -, -, htrace, hport⟩ := step_edge_no_commit_frame hin hr hc
    rw [State.portAfter_no_commit hc, hr] at hport
    refine ⟨t, hstep, fun (hready : s.cmdReady true = true) => ?_, fun (hbusy : s.cmdReady true = false) => ?_⟩
    · have hfl : t.port.inFlight = some op := by simp [hport, hready, hcmd]
      exact ⟨hfl, State.cmdReady_of_inFlight (by simp [hfl]) true, by rw [htrace]; rfl⟩
    · exact .inl (by simp [hport, hbusy])
  | some op' =>
    obtain ⟨u, v, -, -, hstep⟩ := step_edge_commit hin hr hc
    refine ⟨_, hstep, fun (hready : s.cmdReady true = true) => ?_, fun _ => .inr ?_⟩
    · have hidle := (State.cmdReady_iff.1 hready).1
      simp [State.commitOp_of_idle hidle] at hc
    · simp [State.portAfter_commit hc]

/-- Settles O60: while `TXQ` holds a byte no command commits, so the edge's TX_BYTE alone touches the wire and `TXQ`. -/
theorem txEdge : Obligations.TxEdge := by
  unfold Obligations.TxEdge
  intro s e commit rest b hin hr (hhead : s.txq.head? = some b)
  have hq : s.txq ≠ [] := by
    rintro hq
    simp [hq] at hhead
  obtain ⟨t, hstep, -, htxq, htrace, -⟩ := step_edge_no_commit_frame hin hr (State.commitOp_of_queued hq commit)
  refine ⟨t, hstep, fun hready => ?_, fun hstall => ?_⟩
  · simp [htxq, htrace, State.afterTx, hready, hhead]
  · simp [htxq, htrace, State.afterTx, hstall]

/-- Settles O59: the edge that finds `TXQ` empty delivers the waiting response and leaves the port ready, and the next
edge has none to deliver; while `TXQ` holds a byte the response waits. -/
theorem commandCompletion : Obligations.CommandCompletion := by
  unfold Obligations.CommandCompletion
  intro s e e' c c' rest r hin hr hr' hwait hidle
  have hc := State.commitOp_of_idle hidle c
  obtain ⟨t, hstep, hrest, htxq, -, hport⟩ := step_edge_no_commit_frame hin hr hc
  rw [State.portAfter_no_commit hc, State.cmdReady_of_rspWait (by simp [hwait])] at hport
  have hfl : t.port.inFlight = none := by simp [hport, hidle]
  have hc' := State.commitOp_of_idle hfl c'
  obtain ⟨u, hstep', -, -, -, hport'⟩ := step_edge_no_commit_frame hrest hr' hc'
  rw [State.portAfter_no_commit hc'] at hport'
  refine ⟨t, u, hstep, hstep', fun hq => ?_, fun hq => ?_⟩
  · have hdone : s.completes = true := by simp [State.completes, hwait, hq]
    have hnone : t.port.rspWait = none := by simp [hport, hdone]
    have hempty : t.txq = [] := by simp [htxq, State.afterTx, hq]
    exact ⟨by simp [State.outputs, hport, hdone, hwait], State.cmdReady_iff.2 ⟨hfl, hnone, hempty⟩,
      by simp [State.outputs, hport', hnone]⟩
  · have hnot : s.completes = false := by simp [State.completes, hq]
    exact ⟨by simp [State.outputs, hport, hnot], State.cmdReady_of_rspWait (by simp [hport, hnot, hwait]) true⟩

/-- The step of a command that calls `RESET_RX()` (R21): BEGIN, ACKPKT with `EN = 1`, a POLL that raises an error. -/
theorem exec_commandOf_resets {s u : State} {op : CmdOp} (hq : s.txq = [])
    (hop : op = 0b00#2 ∨ (op = 0b10#2 ∧ s.en = true) ∨
      (op = 0b01#2 ∧ (s.pollCase s.settings.params).isError = true))
    (hx : exec (commandOf op) s = .next u) :
    u.en = true ∧ u.rst = .p1 ∧ u.cnt = 0#9 := by
  rcases hop with rfl | ⟨rfl, hen⟩ | ⟨rfl, herr⟩
  · rw [show commandOf 0b00#2 = .beginCmd from rfl, exec_beginCmd, State.asCommand_enabled _ hq] at hx
    cases hx
    exact ⟨rfl, rfl, rfl⟩
  · rw [show commandOf 0b10#2 = .ackpkt from rfl, exec_ackpkt, State.asCommand_enabled _ hq,
      State.ackpkt_enabled _ hen] at hx
    cases hx
    exact ⟨hen, rfl, rfl⟩
  · obtain ⟨hen, -, -⟩ := State.pollCase_error herr
    rw [show commandOf 0b01#2 = .poll from rfl, exec_poll, State.asCommand_enabled _ hq] at hx
    cases hx
    rcases s.poll_shapes s.settings.params with ⟨-, c, -, heq⟩ | ⟨hacc, -⟩ | ⟨hnot, -⟩
    · rw [heq]
      exact ⟨hen, rfl, rfl⟩
    · simp [hacc, PollCase.isError] at herr
    · simp [hnot] at herr

/-- Settles O58: the command's step leaves `EN = 1`, P1 and `CNT = 0`, and the held bytes and the edge's own are
appended from there. -/
theorem byteInTheResetCycleStartsTheAttempt : Obligations.ByteInTheResetCycleStartsTheAttempt := by
  unfold Obligations.ByteInTheResetCycleStartsTheAttempt
  intro s e rest op b hin hr hfl hq hrx hroom hop
  have hc : s.commitOp true = some op := by simp [State.commitOp, State.commandEnabled, hq, hfl]
  have hbytes : s.edgeBytes e true = s.port.held ++ [b] := by simp [State.edgeBytes, hc, hrx]
  obtain ⟨u, v, hu, hv, hstep⟩ := step_edge_commit hin hr hc
  obtain ⟨-, (hnow : u.now = e.nowMs), -⟩ := exec_commandOf_bus hu
  obtain ⟨hen, hrst, hcnt⟩ := exec_commandOf_resets (by simp [State.afterTx, hq]) hop hu
  rw [hbytes] at hv
  obtain ⟨v', hv', hlen, hcells, -, hts, heq⟩ := execAll_rx (s.port.held ++ [b]) u hen (by simp [hcnt]; omega)
  cases hv'.symm.trans hv
  rw [if_pos ⟨by simp, hcnt⟩, hnow] at hts
  simp only [hcnt, BitVec.toNat_ofNat, Nat.zero_mod, Nat.zero_add, List.length_append,
    List.length_singleton] at hlen hcells
  refine ⟨_, hstep, ?_, ?_, hts, hlen, fun k hk => hcells k (by omega), fun hheld => ?_⟩
  · rw [heq]
    exact hen
  · rw [heq]
    exact hrst
  · have hfirst : v.buf.read 0 = some b := by simpa [hheld] using hcells 0 (by omega)
    exact ⟨BitVec.eq_of_toNat_eq (by simpa [hheld] using hlen), State.bufAt_of_read hfirst⟩

end Sys2Proof.Machine

/-! ## Memory (20_memory.md): the frame buffer, the packet view, and the bytes that arrive during a command -/

namespace Sys2Proof.Machine

/-! ### Who writes the buffer (R33) -/

/-- POLL only reads the buffer. -/
@[simp] theorem State.poll_buf (s : State) (p : Params) : (s.poll p).buf = s.buf := by
  rcases s.poll_shapes p with ⟨-, _, -, heq⟩ | ⟨-, heq⟩ | ⟨-, -, _, _, heq, -⟩ <;> rw [heq] <;> rfl

/-- ACKPKT leaves the buffer alone, whatever `EN` is. -/
@[simp] theorem State.ackpkt_buf (s : State) (p : Params) : (s.ackpkt p).buf = s.buf := by
  rw [State.ackpkt_frame]

/-- A step keeps the buffer, or is an RX_BYTE that the block takes (R33). -/
theorem exec_buf_cases {i : Instr} {s t : State} (hx : exec i s = .next t) :
    t.buf = s.buf ∨ ∃ b, i = .rx b ∧ s.en = true ∧ s.cnt ≠ 256#9 ∧ t = s.store b := by
  rcases exec_cases hx with rfl | ⟨-, -, rfl⟩ | ⟨-, -, rfl⟩ | ⟨-, -, rfl⟩ | ⟨-, -, rfl⟩ |
    hrx | ⟨-, -, -, rfl⟩ | ⟨_, -, rfl⟩ | ⟨_, -, rfl⟩
  · exact .inl rfl
  · exact .inl rfl
  · exact .inl (s.poll_buf _)
  · exact .inl (s.ackpkt_buf _)
  · exact .inl rfl
  · exact .inr hrx
  · exact .inl s.popTx_buf
  · exact .inl rfl
  · exact .inl rfl

/-- A stored byte is read back at the cursor. -/
theorem State.bufAt_store_cursor (s : State) (b : Byte) : (s.store b).bufAt s.cursor = b :=
  State.bufAt_of_read (Memory.read_write_same s.buf s.cursor b)

/-- A stored byte leaves every cell but the one at the cursor alone. -/
theorem State.bufAt_store_of_ne (s : State) (b : Byte) {k : Nat} (h : k ≠ s.cursor) :
    (s.store b).bufAt k = s.bufAt k :=
  State.bufAt_congr (Memory.read_write_other s.buf b h)

/-- Settles O38: a step that changes the buffer stores one byte at the cursor. -/
theorem onlyRxWritesTheBuffer : Obligations.OnlyRxWritesTheBuffer := by
  unfold Obligations.OnlyRxWritesTheBuffer
  intro i s t hcnt hx
  rcases exec_buf_cases hx with hbuf | ⟨b, rfl, hen, hroom, rfl⟩
  · have hsame (k : Nat) : t.bufAt k = s.bufAt k := State.bufAt_congr (congrArg (·.read k) hbuf)
    exact ⟨fun a _ => hsame a.toNat, fun a hne => absurd (hsame a.toNat) hne⟩
  · have hother {a : BitVec 8} (ha : a ≠ s.cnt.setWidth 8) : (s.store b).bufAt a.toNat = s.bufAt a.toNat :=
      s.bufAt_store_of_ne b fun heq => ha (BitVec.eq_of_toNat_eq heq)
    refine ⟨fun a ha => hother ha, fun a hne => ⟨b, rfl, hen, by bv_omega, ?_⟩⟩
    obtain rfl : a = s.cnt.setWidth 8 := by_contra fun ha => hne (hother ha)
    exact s.bufAt_store_cursor b

/-! ### The packet view (R46) -/

/-- Each case of POLL adds one response, `PKT` where the packet is ready and NOPKT elsewhere (R49, R73). -/
theorem State.runCase_responses (s : State) (p : Params) (c : PollCase) :
    (s.runCase p c).trace.responses = s.trace.responses ++ [if c = .ready then .pkt s.packetView else .nopkt] := by
  cases c <;> rfl

/-- A POLL that answers `PKT(v)` has found the packet ready; `v` is the view, and only the traces change (R86). -/
theorem exec_poll_pkt {s t : State} {v : List Byte} (hx : exec .poll s = .next t)
    (hresp : t.trace.responses = s.trace.responses ++ [.pkt v]) :
    s.pollCase s.settings.params = .ready ∧ v = s.packetView ∧ t = s.pollReturn (.pkt v) := by
  cases hx
  by_cases hq : s.txq = []
  · rw [State.asCommand_enabled _ hq, State.poll] at hresp ⊢
    by_cases hc : s.pollCase s.settings.params = .ready
    · obtain rfl : s.packetView = v := by simpa [State.runCase_responses, hc] using hresp
      exact ⟨hc, rfl, by rw [hc]; rfl⟩
    · simp [State.runCase_responses, hc] at hresp
  · simp [hq] at hresp

/-- The view has `L` bytes. -/
theorem State.length_packetView (s : State) : s.packetView.length = (s.bufAt 0).toNat := by
  simp [State.packetView, State.bufRange]

/-- The view's bytes are the first cells of the buffer. -/
theorem State.getElem?_packetView {s : State} {k : Nat} (hk : k < s.packetView.length) :
    s.packetView[k]? = some (s.bufAt k) := by
  rw [s.length_packetView] at hk
  simp [State.packetView, State.bufRange, hk]

/-- The buffer starts with the bytes of `v`, and the write cursor is behind them, in the buffer. -/
structure State.HoldsView (s : State) (v : List Byte) : Prop where
  counted : v.length ≤ s.cnt.toNat
  cntInRange : s.cnt.toNat ≤ Config.cap
  cells : ∀ k < v.length, v[k]? = some (s.bufAt k)

/-- Only `CNT` and `BUF` say which view is held. -/
theorem State.HoldsView.congr {s t : State} {v : List Byte} (h : s.HoldsView v) (hcnt : t.cnt = s.cnt)
    (hbuf : t.buf = s.buf) : t.HoldsView v where
  counted := hcnt ▸ h.counted
  cntInRange := hcnt ▸ h.cntInRange
  cells k hk := (h.cells k hk).trans (congrArg some (State.bufAt_congr (congrArg (·.read k) hbuf.symm)))

/-- A byte stored behind a view leaves it as it is (R14, R46). -/
theorem State.HoldsView.store {s : State} {v : List Byte} (h : s.HoldsView v) (b : Byte) (hroom : s.cnt ≠ 256#9) :
    (s.store b).HoldsView v := by
  have hlt : s.cnt.toNat < Config.cap :=
    lt_of_le_of_ne h.cntInRange fun heq => hroom (BitVec.eq_of_toNat_eq heq)
  have hcnt := State.store_cnt_toNat b hlt
  have hlen := h.counted
  exact {
    counted := by omega
    cntInRange := by rw [hcnt]; exact hlt
    cells := fun k hk => by
      rw [s.bufAt_store_of_ne b (by rw [s.cursor_eq hlt]; omega)]
      exact h.cells k hk }

/-- A POLL that finds a packet ready finds its view in the buffer. -/
theorem State.holdsView_packetView {s : State} {p : Params} (h : s.pollCase p = .ready) :
    s.HoldsView s.packetView := by
  obtain ⟨-, -, -, -, hcnt, -⟩ := State.pollCase_ready h
  have hbyte := (s.bufAt 0).isLt
  exact {
    counted := by rw [s.length_packetView, hcnt, s.declared_toNat]
    cntInRange := by rw [hcnt, s.declared_toNat]; exact hbyte.le
    cells := fun _ hk => State.getElem?_packetView hk }

/-- Every step but BEGIN, ACKPKT and POLL keeps a held view: a byte is stored behind it. -/
theorem exec_holdsView {i : Instr} {s t : State} {v : List Byte} (hi : i ≠ .ackpkt ∧ i ≠ .beginCmd ∧ i ≠ .poll)
    (h : s.HoldsView v) (hx : exec i s = .next t) : t.HoldsView v := by
  obtain ⟨hack, hbegin, hpoll⟩ := hi
  rcases exec_cases hx with rfl | ⟨heq, -⟩ | ⟨heq, -⟩ | ⟨heq, -⟩ | ⟨-, -, rfl⟩ |
    ⟨b, -, -, hroom, rfl⟩ | ⟨-, -, -, rfl⟩ | ⟨_, -, rfl⟩ | ⟨_, -, rfl⟩
  · exact h
  · exact absurd heq hbegin
  · exact absurd heq hpoll
  · exact absurd heq hack
  · exact h.congr rfl rfl
  · exact h.store b hroom
  · exact h.congr s.popTx_cnt s.popTx_buf
  · exact h.congr rfl rfl
  · exact h.congr rfl rfl

/-- Without an RX_BYTE among them, steps keep the buffer (R33). -/
theorem execAll_buf {is : List Instr} {s t : State} (hno : ∀ i ∈ is, ∀ b, i ≠ .rx b)
    (hx : execAll is s = .next t) : t.buf = s.buf := by
  refine execAll_keeps (P := fun u => u.buf = s.buf) (fun i hi u w hu hw => ?_) rfl hx
  rcases exec_buf_cases hw with hbuf | ⟨b, heq, -⟩
  · exact hbuf.trans hu
  · exact absurd heq (hno i hi b)

/-- Settles O44: the steps of `pre` store bytes behind the view, and those of `post` keep the whole buffer. -/
theorem packetViewStaysReadable : Obligations.PacketViewStaysReadable := by
  unfold Obligations.PacketViewStaysReadable
  intro s t u v pre post a hpoll hresp hpre hpost hx ha
  obtain ⟨hready, rfl, rfl⟩ := exec_poll_pkt hpoll hresp
  obtain ⟨m, hm⟩ := execAll_total pre (s.pollReturn (.pkt s.packetView))
  rw [execAll_append_of_next hm] at hx
  have hfirst : (s.pollReturn (.pkt s.packetView)).HoldsView s.packetView :=
    (State.holdsView_packetView hready).congr rfl rfl
  have hview : m.HoldsView s.packetView :=
    execAll_keeps (P := fun w => w.HoldsView s.packetView) (fun i hi _ _ hw hw' => exec_holdsView (hpre i hi) hw hw')
      hfirst hm
  have hbuf : u.buf = m.buf := execAll_buf hpost hx
  refine ⟨_, exec_read a u, (hview.cells a.toNat ha).trans (congrArg some ?_)⟩
  exact State.bufAt_congr (congrArg (·.read a.toNat) hbuf.symm)

/-! ### Bytes that arrive while a command is in flight (R42, R43) -/

/-- Where the environment does not end the latency, no command commits (R30). -/
@[simp] theorem State.commitOp_false (s : State) : s.commitOp false = none := rfl

/-- A command in flight whose latency ends, with `TXQ` empty, commits (R30, R92). -/
theorem State.commitOp_of_inFlight {s : State} {op : CmdOp} (hfl : s.port.inFlight = some op) (hq : s.txq = []) :
    s.commitOp true = some op := by
  simp [State.commitOp, State.commandEnabled, hq, hfl]

/-- A commit releases the held bytes, and the edge's own follows them (R43, log 19). -/
theorem State.edgeBytes_commit {s : State} {e : Edge} {commit : Bool} {op : CmdOp} (hc : s.commitOp commit = some op) :
    s.edgeBytes e commit = s.port.held ++ e.rx.toList := by
  simp only [State.edgeBytes, hc]

/-- A command in flight that does not commit lets no byte through (R43). -/
theorem State.edgeBytes_inFlight {s : State} {e : Edge} {commit : Bool} (hc : s.commitOp commit = none)
    (hfl : s.port.inFlight.isSome) : s.edgeBytes e commit = [] := by
  simp [State.edgeBytes, hc, hfl]

/-- With `TXQ` empty the edge's TX agent has nothing to send: only READ, TICK and the sink's level are left. -/
theorem State.afterTx_of_empty {s : State} (hq : s.txq = []) (e : Edge) :
    s.afterTx e = { s with sinkReady := e.txReady, rdData := s.bufAt e.rdAddr.toNat, now := e.nowMs } := by
  simp [State.afterTx, hq]

/-- Settles O56: the edge runs no RX_BYTE, and the port side takes the byte. -/
theorem bytesHeldDuringACommand : Obligations.BytesHeldDuringACommand := by
  unfold Obligations.BytesHeldDuringACommand
  intro s e rest op hin hr hfl
  have hsome : s.port.inFlight.isSome := by simp [hfl]
  obtain ⟨v, hv, hstep⟩ := step_edge_no_commit hin hr s.commitOp_false
  rw [State.edgeBytes_inFlight s.commitOp_false hsome] at hv
  cases hv
  refine ⟨_, hstep, ?_, ?_, rfl, rfl, rfl, rfl, fun _ => rfl⟩
  · simp [State.portAfter_no_commit s.commitOp_false, State.cmdReady_of_inFlight hsome, hfl]
  · simp [State.portAfter_no_commit s.commitOp_false, hsome]

/-- Settles O57: the command's step, then the released bytes: they write `CNT`, `TS` and `BUF` alone, and where they
fit an enabled receiver appends them all. -/
theorem commitThenHeldBytes : Obligations.CommitThenHeldBytes := by
  unfold Obligations.CommitThenHeldBytes
  intro s e rest op hin hr hfl hq
  have hc := State.commitOp_of_inFlight hfl hq
  obtain ⟨u, v, hu, hv, hstep⟩ := step_edge_commit hin hr hc
  rw [State.edgeBytes_commit hc] at hv
  obtain ⟨-, (hnow : u.now = e.nowMs), -⟩ := exec_commandOf_bus hu
  rw [State.afterTx_of_empty hq] at hu
  have hframe := execAll_rx_frame _ hv
  have htrace : v.trace = u.trace := by rw [hframe]
  refine ⟨u, _, hu, hstep, by rw [hframe], by rw [hframe], by rw [hframe], htrace, ?_, fun hen hroom => ?_⟩
  · rw [← htrace]
    exact State.portAfter_commit hc _
  · obtain ⟨v', hv', hcnt, hnew, hold, hts, -⟩ := execAll_rx _ u hen hroom
    cases hv'.symm.trans hv
    refine ⟨hcnt, hnew, hold, fun hne hzero => ?_⟩
    rw [if_pos ⟨hne, hzero⟩, hnow] at hts
    exact hts

end Sys2Proof.Machine

/-! ## Encoding (30_encoding.md): the words of the ports, the prologue check, and whole packets -/

namespace Sys2Proof

/-! ### Port words (R47, R50 to R53) -/

/-- A command's port word carries its code (R47). -/
theorem encode_commandOf : ∀ op : CmdOp, encode (commandOf op) = ⟨.cmd, op.setWidth 32⟩ := by decide

/-- A word that decodes is the word the encoder writes for what it decodes to: the decoder drops no bit. -/
theorem encode_of_decode {w : PortWord} {i : Instr} (h : decode w = .ok i) : encode i = w := by
  have hfit : w.bits.toNat < 2 ^ w.port.width := of_decide_eq_true (wf_of_decode h)
  obtain ⟨port, v⟩ := w
  cases port with
  | cmd =>
    rw [decode_cmd hfit] at h; cases h
    rw [encode_commandOf, BitVec.setWidth_setWidth_eq_self hfit]
  | rx =>
    rw [decode_rx hfit] at h; cases h
    rw [encode, BitVec.setWidth_setWidth_eq_self hfit]
  | tx =>
    obtain rfl : v = 0 := BitVec.eq_of_toNat_eq (Nat.lt_one_iff.1 hfit)
    rw [decode_tx] at h; cases h
    rfl
  | read =>
    rw [decode_read hfit] at h; cases h
    rw [encode, BitVec.setWidth_setWidth_eq_self hfit]
  | clock =>
    rw [decode_clock] at h; cases h
    rfl

/-- Settles O2: the encoder inverts the decoder, and the decoder the encoder. -/
theorem decodeInvertsEncode : Obligations.DecodeInvertsEncode := by
  unfold Obligations.DecodeInvertsEncode
  intro w i
  constructor
  · exact fun h => (encode_of_decode h).symm
  · rintro rfl
    exact decode_encode i

/-- Settles O1: each port word is the encoder's; a bare table word below 4 is a word of the command port (log 16). -/
theorem decodeReadsTheSpecWords : Obligations.DecodeReadsTheSpecWords := by
  unfold Obligations.DecodeReadsTheSpecWords
  exact ⟨decode_encode .beginCmd, decode_encode .poll, decode_encode .ackpkt, decode_encode .rsvd,
    decode_encode (.rx 0xFA), decode_encode .txByte, decode_encode (.read 0x02), decode_encode (.tick 0xFFFFFFFE),
    rfl, rfl, rfl, rfl⟩

namespace Machine

/-! ### Responses and codes (R49, R54, R108) -/

/-- The flag of a `PKT` word is set (R49). -/
theorem Response.word_pkt_flag (v : List Byte) : (Response.pkt v).word.getLsbD 8 = true := by
  rw [Response.word, BitVec.getLsbD_append]
  rfl

/-- The low byte of a `PKT` word is the view's length (R49). -/
theorem Response.word_pkt_length {v : List Byte} (h : v.length < 256) :
    ((Response.pkt v).word.setWidth 8).toNat = v.length := by
  rw [Response.word, BitVec.setWidth_append_eq_right, BitVec.toNat_ofNat, Nat.mod_eq_of_lt h]

/-- Settles O3: the words of R49 for every view that fits a length byte, and the tables of R54 and R108. -/
theorem responseWordsAndCodes : Obligations.ResponseWordsAndCodes := by
  unfold Obligations.ResponseWordsAndCodes
  exact ⟨rfl, fun v hv => ⟨Response.word_pkt_flag v, Response.word_pkt_length hv⟩, rfl, rfl, rfl, rfl⟩

/-! ### The prologue check (R56) -/

/-- The check compares `BUF[1]` with the complement of `BUF[0]` (R56). -/
theorem State.complementOk_iff {s : State} : s.complementOk = true ↔ s.bufAt 1 = ~~~ s.bufAt 0 := by
  rw [State.complementOk, decide_eq_true_iff]

/-- Two bytes are complements exactly if they differ in every bit. -/
theorem eq_not_iff_xor {a b : Byte} : b = ~~~ a ↔ a ^^^ b = 0xFF#8 := by
  have hdiff : a ^^^ ~~~ a = 0xFF#8 := by rw [← BitVec.not_xor_right, BitVec.xor_self]; rfl
  rw [← hdiff, BitVec.xor_right_inj]

/-- Two bytes are complements exactly if they add up to 255. -/
theorem eq_not_iff_toNat_add {a b : Byte} : b = ~~~ a ↔ a.toNat + b.toNat = 255 := by
  rw [← BitVec.toNat_inj, BitVec.toNat_not]
  omega

/-- Settles O5: the check is an equation of two bytes, which has an XOR and a sum form. -/
theorem complementCheckForms : Obligations.ComplementCheckForms := by
  unfold Obligations.ComplementCheckForms
  exact fun _ => ⟨State.complementOk_iff, State.complementOk_iff.trans eq_not_iff_xor,
    State.complementOk_iff.trans eq_not_iff_toNat_add⟩

/-! ### The packet that a POLL hands over (R57, R60, R86) -/

/-- The checksum covers the view without its two header bytes (R60). -/
theorem State.checksumRegion_eq (s : State) : s.checksumRegion = s.packetView.drop 2 := by
  unfold State.checksumRegion State.packetView State.bufRange
  exact List.ext_getElem (by simp) (by simp)

/-- Settles O42: the case of POLL that answers `PKT` is R86's, and the response carries the view. -/
theorem packetResponseIsValidated : Obligations.PacketResponseIsValidated := by
  unfold Obligations.PacketResponseIsValidated
  intro s t v hx hresp
  obtain ⟨hready, rfl, -⟩ := exec_poll_pkt hx hresp
  obtain ⟨hen, hrst, h0, h1, hcnt, hck⟩ := State.pollCase_ready hready
  have hlen : s.cnt.toNat = s.packetView.length := by rw [hcnt, s.declared_toNat, s.length_packetView]
  have htwo : 2 ≤ s.packetView.length := by bv_omega
  refine ⟨hen, hrst, hlen, htwo, ?_, ?_⟩
  · rw [State.getElem?_packetView (by omega), s.length_packetView, BitVec.ofNat_toNat, BitVec.setWidth_eq]
  · rw [State.getElem?_packetView (by omega), ← s.checksumRegion_eq]
    exact congrArg some (of_decide_eq_true hck).symm

/-! ### A whole attempt, from the first byte to the packet (95_test_vectors.md L1) -/

/-- P1 with bytes in the buffer: the POLL moves on to P2 (R76). -/
theorem State.pollCase_eq_firstByte {s : State} (p : Params) (hen : s.en = true) (hrst : s.rst = .p1)
    (hcnt : s.cnt ≠ 0#9) : s.pollCase p = .firstByte := by
  simp [State.pollCase, hen, hrst, hcnt]

/-- The converse of `State.pollCase_accept`: two bytes that are complements are accepted (R80). -/
theorem State.pollCase_eq_accept {s : State} (p : Params) (hen : s.en = true) (hrst : s.rst = .p2)
    (hcnt : s.cnt = 2#9) (hcomp : s.complementOk = true) : s.pollCase p = .accept := by
  simp [State.pollCase, hen, hrst, hcnt, hcomp]

/-- The converse of `State.pollCase_ready`: a complete body with a matching checksum is ready (R86). -/
theorem State.pollCase_eq_ready {s : State} {p : Params} (hen : s.en = true) (hrst : s.rst = .body)
    (htwo : 2 ≤ s.cnt.toNat) (hcnt : s.cnt = s.declared) (hck : s.checksumOk p = true) : s.pollCase p = .ready := by
  have h0 : s.cnt ≠ 0#9 := by bv_omega
  have h1 : s.cnt ≠ 1#9 := by bv_omega
  simp [State.pollCase, hen, hrst, h0, h1, ← hcnt, hck]

/-- A block that was idle, after the first two bytes of an attempt, `d` ms apart, and one POLL (R69, R76). -/
def State.afterPrologue (s : State) (x y : Byte) (d : Time) : State :=
  { s with
    rst := .p2, cnt := 2#9, ts := s.now, buf := (s.buf.write 0 x).write 1 y, now := s.now + d
    trace := s.trace.polled .none .nopkt }

@[simp] theorem State.afterPrologue_bufAt_zero (s : State) (x y : Byte) (d : Time) :
    (s.afterPrologue x y d).bufAt 0 = x :=
  State.bufAt_of_read ((Memory.read_write_other _ y (by decide)).trans (Memory.read_write_same s.buf 0 x))

@[simp] theorem State.afterPrologue_bufAt_one (s : State) (x y : Byte) (d : Time) :
    (s.afterPrologue x y d).bufAt 1 = y :=
  State.bufAt_of_read (Memory.read_write_same _ 1 y)

/-- Two bytes and a POLL bring an idle block to the prologue check. -/
theorem execAll_prologue {s : State} (x y : Byte) (d : Time) (hen : s.en = true) (hrst : s.rst = .p1)
    (hcnt : s.cnt = 0#9) (hq : s.txq = []) :
    execAll [.rx x, .tick d, .rx y, .poll] s = .next (s.afterPrologue x y d) := by
  rw [execAll_cons_of_next (exec_rx_stores x hen (by simp [hcnt])), execAll_cons_of_next (exec_tick d _),
    execAll_cons_of_next (exec_rx_stores y (by exact hen) (by simp [hcnt])),
    execAll_cons_of_next (exec_poll_case (by exact hq)
      (State.pollCase_eq_firstByte _ (by exact hen) (by exact hrst) (by simp [hcnt]))), execAll_nil]
  simp [State.afterPrologue, State.runCase, State.pollReturn, State.noteCause, State.respond, Trace.polled,
    State.store, State.cursor, hcnt]

/-- The accept of a prologue, and its READY frame on the wire (R80, R102). -/
def State.afterAccept (s : State) : State :=
  { s with
    rst := .body, cnt := 1#9
    trace := { s.trace.polled .none .nopkt with
      wire := s.trace.wire ++ controlFrame s.settings.params .ready } }

/-- The POLL that accepts a prologue and three TX_BYTEs, with the sink ready (R80, R103). -/
theorem execAll_accept {s : State} (hen : s.en = true) (hrst : s.rst = .p2) (hcnt : s.cnt = 2#9) (hq : s.txq = [])
    (hr : s.sinkReady = true) (hcomp : s.complementOk = true) :
    execAll [.poll, .txByte, .txByte, .txByte] s = .next s.afterAccept := by
  rw [execAll_cons_of_next (exec_poll_case hq (State.pollCase_eq_accept _ hen hrst hcnt hcomp))]
  refine (execAll_replicate_txByte 3 (by exact hr)).trans ?_
  simp [State.runCase, State.afterAccept, Trace.polled, hq, controlFrame]

/-- After the accept the buffer holds the declared length alone: the next byte replaces its complement (R80). -/
theorem State.afterAccept_holdsView (s : State) : s.afterAccept.HoldsView [s.bufAt 0] where
  counted := le_rfl
  cntInRange := by simp [State.afterAccept, Config.cap]
  cells k hk := by
    obtain rfl : k = 0 := Nat.lt_one_iff.1 hk
    rfl

/-- Received bytes join a view that ends at the write cursor; nothing but `CNT`, `TS` and `BUF` changes (R69). -/
theorem execAll_rx_holdsView {s : State} {v : List Byte} (bs : List Byte) (hen : s.en = true) (hview : s.HoldsView v)
    (hcnt : s.cnt.toNat = v.length) (hroom : v.length + bs.length ≤ 256) :
    ∃ t : State, execAll (bs.map .rx) s = .next t ∧ t.HoldsView (v ++ bs) ∧ t.cnt.toNat = (v ++ bs).length ∧
      t = { s with cnt := t.cnt, ts := t.ts, buf := t.buf } := by
  obtain ⟨t, hx, htcnt, hnew, hold, -, hframe⟩ := execAll_rx bs s hen (by omega)
  rw [hcnt] at htcnt hnew hold
  have hcount : t.cnt.toNat = (v ++ bs).length := by rw [htcnt, List.length_append]
  refine ⟨t, hx, ⟨hcount.ge, by rw [htcnt]; exact hroom, fun k hk => ?_⟩, hcount, hframe⟩
  by_cases hkv : k < v.length
  · rw [List.getElem?_append_left hkv, hview.cells k hkv, State.bufAt_congr (hold k hkv)]
  · obtain ⟨j, rfl⟩ := Nat.exists_eq_add_of_le (Nat.le_of_not_lt hkv)
    have hj : j < bs.length := by rw [List.length_append] at hk; omega
    have hread := hnew j hj
    rw [List.getElem?_eq_getElem hj] at hread
    rw [List.getElem?_append_right (by omega), Nat.add_sub_cancel_left, State.bufAt_of_read hread,
      List.getElem?_eq_getElem hj]

/-- A state that holds as many bytes as `BUF[0]` declares shows exactly those as its packet view (R57). -/
theorem State.HoldsView.packetView_eq {s : State} {v : List Byte} (h : s.HoldsView v)
    (hlen : (s.bufAt 0).toNat = v.length) : s.packetView = v := by
  have hsame : s.packetView.length = v.length := s.length_packetView.trans hlen
  refine List.ext_getElem? fun k => ?_
  by_cases hk : k < v.length
  · rw [State.getElem?_packetView (hsame ▸ hk), h.cells k hk]
  · rw [List.getElem?_eq_none (by omega), List.getElem?_eq_none (by omega)]

/-- A POLL that finds the whole of a packet with a matching checksum hands it over (R86). -/
theorem exec_poll_delivers {s : State} {len c : Byte} {rest : List Byte} (hen : s.en = true) (hrst : s.rst = .body)
    (hq : s.txq = []) (hview : s.HoldsView (len :: c :: rest)) (hcnt : s.cnt.toNat = len.toNat)
    (hlen : len.toNat = rest.length + 2) (hck : Config.cksum rest = c) :
    exec .poll s = .next (s.pollReturn (.pkt (len :: c :: rest))) := by
  have hfirst : s.bufAt 0 = len := (Option.some.inj (hview.cells 0 (by simp))).symm
  have hsecond : s.bufAt 1 = c := (Option.some.inj (hview.cells 1 (by simp))).symm
  have hshown : s.packetView = len :: c :: rest := hview.packetView_eq (by rw [hfirst, hlen]; rfl)
  have hdeclared : s.cnt = s.declared := BitVec.eq_of_toNat_eq (by rw [s.declared_toNat, hfirst, hcnt])
  have hmatch : s.checksumOk s.settings.params = true := by
    rw [State.checksumOk, decide_eq_true_iff, s.checksumRegion_eq, hshown, hsecond]
    exact hck
  rw [exec_poll_case hq (State.pollCase_eq_ready hen hrst (by omega) hdeclared hmatch), State.runCase, hshown]

/-- After the accept, the rest of a packet and a POLL: the packet is handed over, whatever the bytes and the POLL wait
for (R86, R136). -/
theorem execAll_body_delivers {s : State} {len c : Byte} {rest : List Byte} (d₁ d₂ : Time) (hen : s.en = true)
    (hrst : s.rst = .body) (hcnt : s.cnt = 1#9) (hq : s.txq = []) (hview : s.HoldsView [len])
    (hlen : len.toNat = rest.length + 2) (hck : Config.cksum rest = c) :
    ∃ t : State, execAll (.tick d₁ :: ((c :: rest).map .rx ++ [.tick d₂, .poll])) s =
        .next (t.pollReturn (.pkt (len :: c :: rest))) ∧
      t.rst = .body ∧ t.cnt = len.setWidth 9 ∧ t.txq = [] ∧ t.trace = s.trace := by
  have hbyte := len.isLt
  have hone : s.cnt.toNat = 1 := by rw [hcnt]; rfl
  obtain ⟨u, hbody, huview, hcount, hframe⟩ := execAll_rx_holdsView (s := { s with now := s.now + d₁ })
    (c :: rest) hen (hview.congr rfl rfl) hone (by simp only [List.length_cons, List.length_nil]; omega)
  have hufull : u.cnt.toNat = len.toNat := hcount.trans hlen.symm
  have huen : u.en = true := by rw [hframe]; exact hen
  have hurst : u.rst = .body := by rw [hframe]; exact hrst
  have huq : u.txq = [] := by rw [hframe]; exact hq
  have hpoll : exec .poll { u with now := u.now + d₂ } = _ :=
    exec_poll_delivers huen hurst huq (huview.congr rfl rfl) hufull hlen hck
  refine ⟨{ u with now := u.now + d₂ }, ?_, hurst, BitVec.eq_of_toNat_eq ?_, huq, by rw [hframe]⟩
  · rw [execAll_cons_of_next (exec_tick d₁ s), execAll_append_of_next hbody, execAll_cons_of_next (exec_tick d₂ u),
      execAll_cons_of_next hpoll, execAll_nil]
  · rw [hufull, BitVec.toNat_setWidth, Nat.mod_eq_of_lt (by omega)]

/-- Settles O50: the prologue, its accept with the READY frame, and the body, one part of the schedule after the
other. -/
theorem roundTripDeliversThePacket : Obligations.RoundTripDeliversThePacket := by
  unfold Obligations.RoundTripDeliversThePacket
  intro s len ty payload d₁ d₂ d₃ hen hrst hcnt hq hr hlen c
  have hprologue := execAll_prologue len (~~~ len) d₁ hen hrst hcnt hq
  have haccept : execAll _ (s.afterPrologue len (~~~ len) d₁) = _ :=
    execAll_accept hen rfl rfl hq hr (State.complementOk_iff.2 (by simp))
  have hview := (s.afterPrologue len (~~~ len) d₁).afterAccept_holdsView
  rw [State.afterPrologue_bufAt_zero] at hview
  obtain ⟨t, hbody, htrst, htcnt, htq, htrace⟩ :=
    execAll_body_delivers (c := c) (rest := ty :: payload) d₂ d₃ (by exact hen) rfl rfl (by exact hq) hview hlen rfl
  refine ⟨_, (execAll_append_of_next hprologue).trans ((execAll_append_of_next haccept).trans hbody), ?_, ?_, ?_, htrst,
    htcnt, htq⟩
  · simp [htrace, State.afterAccept, State.afterPrologue, Trace.polled]
  · simp [htrace, State.afterAccept, State.afterPrologue, Trace.polled, controlFrame_ready]
  · simp [htrace, State.afterAccept, State.afterPrologue, Trace.polled]

end Machine
end Sys2Proof

/-! ## RX_BYTE (40_rx.md): the byte that is stored, the byte that is dropped, and what RX_BYTE does not read -/

namespace Sys2Proof.Machine

/-! ### The byte that is stored (R68, R69, R72) -/

/-- Every address of the buffer after a store: the cursor's cell holds the byte, the others are as before (R68). -/
theorem State.bufAt_store (s : State) (b : Byte) (a : BitVec 8) :
    (s.store b).bufAt a.toNat = if a = s.cnt.setWidth 8 then b else s.bufAt a.toNat := by
  split
  next hcur => subst hcur; exact s.bufAt_store_cursor b
  next hother => exact s.bufAt_store_of_ne b fun heq => hother (BitVec.eq_of_toNat_eq heq)

/-- A store neither reads nor writes `RST` and `TXQ` (R72). -/
theorem State.store_with_rst_txq (s : State) (b : Byte) (q : RecvState) (xs : List Byte) :
    State.store { s with rst := q, txq := xs } b = { s.store b with rst := q, txq := xs } := rfl

/-- Settles O14: with room an enabled block stores the byte, and a store writes no other register. -/
theorem rxStoresTheByte : Obligations.RxStoresTheByte := by
  unfold Obligations.RxStoresTheByte
  intro s b hen hroom
  exact ⟨s.store b, exec_rx_stores b hen hroom, s.store_cnt b, s.store_ts b, s.bufAt_store b, rfl⟩

/-- Settles O17: whether the byte is dropped depends on `EN` and `CNT` alone, and a store is blind to `RST` and
`TXQ`. -/
theorem rxIgnoresRstAndTxq : Obligations.RxIgnoresRstAndTxq := by
  unfold Obligations.RxIgnoresRstAndTxq
  intro s t b q xs hx
  by_cases hdrop : s.en = false ∨ s.cnt = 256#9
  · cases (exec_rx_dropped b hdrop).symm.trans hx
    exact ⟨rfl, rfl, exec_rx_dropped b (by exact hdrop)⟩
  · obtain ⟨hen, hroom⟩ := not_or.1 hdrop
    have hen : s.en = true := by simpa using hen
    cases (exec_rx_stores b hen hroom).symm.trans hx
    refine ⟨s.store_rst b, s.store_txq b, ?_⟩
    rw [← s.store_with_rst_txq]
    exact exec_rx_stores b (by exact hen) (by exact hroom)

/-! ### The byte that is dropped, and the overrun that the next POLL reports (R70, R71, R82, R88) -/

/-- P2 with a third byte in the buffer: the prologue has overrun (R82). -/
theorem State.pollCase_eq_prologueOverrun {s : State} (p : Params) (hen : s.en = true) (hrst : s.rst = .p2)
    (hcnt : 3 ≤ s.cnt.toNat) : s.pollCase p = .prologueOverrun := by
  have h0 : s.cnt ≠ 0#9 := by bv_omega
  have h1 : s.cnt ≠ 1#9 := by bv_omega
  have h2 : s.cnt ≠ 2#9 := by bv_omega
  simp [State.pollCase, hen, hrst, h0, h1, h2]

/-- BODY with more bytes than the declared length: the body has overrun (R88). -/
theorem State.pollCase_eq_bodyOverrun {s : State} (p : Params) (hen : s.en = true) (hrst : s.rst = .body)
    (htwo : 2 ≤ s.cnt.toNat) (hover : s.declared < s.cnt) : s.pollCase p = .bodyOverrun := by
  have h0 : s.cnt ≠ 0#9 := by bv_omega
  have h1 : s.cnt ≠ 1#9 := by bv_omega
  have hlt : ¬ s.cnt < s.declared := by bv_omega
  have hne : s.cnt ≠ s.declared := by bv_omega
  simp [State.pollCase, hen, hrst, h0, h1, hlt, hne]

/-- Settles O15: the first of the two conditions under which a byte is dropped. -/
theorem rxDroppedWhileDisabled : Obligations.RxDroppedWhileDisabled := by
  unfold Obligations.RxDroppedWhileDisabled
  exact fun _ b hen => exec_rx_dropped b (.inl hen)

/-- Settles O16: the byte is dropped for want of room; 256 bytes are more than a prologue, and more than any length
byte declares. -/
theorem rxDroppedWhileFull : Obligations.RxDroppedWhileFull := by
  unfold Obligations.RxDroppedWhileFull
  intro s b hfull
  have hcnt : s.cnt.toNat = 256 := by rw [hfull]; rfl
  refine ⟨exec_rx_dropped b (.inr hfull), fun hen hq => ⟨fun hrst => ?_, fun hrst => ?_⟩⟩
  · exact exec_poll_case hq (State.pollCase_eq_prologueOverrun _ hen hrst (by omega))
  · have hover : s.declared < s.cnt := by
      have hbyte := (s.bufAt 0).isLt
      rw [BitVec.lt_def, s.declared_toNat]
      omega
    exact exec_poll_case hq (State.pollCase_eq_bodyOverrun _ hen hrst (by omega) hover)

end Sys2Proof.Machine

/-! ## POLL (41_poll.md): each case of the dispatch, what a POLL depends on, and attempts that fail -/

namespace Sys2Proof.Machine

/-! ### The case that applies (R73 to R87); R76, R80, R82, R86 and R88 have theirs above -/

section PollCases

variable {s : State} (p : Params)

/-- A disabled block (R74). -/
theorem State.pollCase_eq_disabled (hen : s.en = false) : s.pollCase p = .disabled := by
  simp [State.pollCase, hen]

/-- P1 with an empty buffer (R75). -/
theorem State.pollCase_eq_idle (hen : s.en = true) (hrst : s.rst = .p1) (hcnt : s.cnt = 0#9) :
    s.pollCase p = .idle := by
  simp [State.pollCase, hen, hrst, hcnt]

/-- P2 with an empty buffer (R77). -/
theorem State.pollCase_eq_p2Empty (hen : s.en = true) (hrst : s.rst = .p2) (hcnt : s.cnt = 0#9) :
    s.pollCase p = .p2Empty := by
  simp [State.pollCase, hen, hrst, hcnt]

/-- BODY with an empty buffer (R83). -/
theorem State.pollCase_eq_bodyEmpty (hen : s.en = true) (hrst : s.rst = .body) (hcnt : s.cnt = 0#9) :
    s.pollCase p = .bodyEmpty := by
  simp [State.pollCase, hen, hrst, hcnt]

/-- P2 with one byte: the deadline decides (R78, R79). -/
theorem State.pollCase_eq_p2OneByte (hen : s.en = true) (hrst : s.rst = .p2) (hcnt : s.cnt = 1#9) :
    s.pollCase p = if s.timedOut p then .prologueTimeout else .p2Wait := by
  simp [State.pollCase, hen, hrst, hcnt]

/-- P2 with two bytes that are not complements (R81). -/
theorem State.pollCase_eq_prologueCorrupt (hen : s.en = true) (hrst : s.rst = .p2) (hcnt : s.cnt = 2#9)
    (hcomp : s.bufAt 1 ≠ ~~~ s.bufAt 0) : s.pollCase p = .prologueCorrupt := by
  have hbad : s.complementOk = false := by rwa [← Bool.not_eq_true, State.complementOk_iff]
  simp [State.pollCase, hen, hrst, hcnt, hbad]

/-- An incomplete body: the deadline decides (R84, R85). -/
theorem State.pollCase_eq_bodyIncomplete (hen : s.en = true) (hrst : s.rst = .body) (hcnt : s.cnt ≠ 0#9)
    (hpart : s.cnt = 1#9 ∨ s.cnt < s.declared) :
    s.pollCase p = if s.timedOut p then .bodyTimeout else .bodyWait := by
  simp [State.pollCase, hen, hrst, hcnt, hpart]

/-- A complete body whose checksum does not match (R87). -/
theorem State.pollCase_eq_checksumMismatch {p : Params} (hen : s.en = true) (hrst : s.rst = .body)
    (htwo : 2 ≤ s.cnt.toNat) (hcnt : s.cnt = s.declared) (hck : s.checksumOk p = false) :
    s.pollCase p = .checksumMismatch := by
  have h0 : s.cnt ≠ 0#9 := by bv_omega
  have h1 : s.cnt ≠ 1#9 := by bv_omega
  simp [State.pollCase, hen, hrst, h0, h1, ← hcnt, hck]

end PollCases

/-! ### What each POLL does, case by case -/

/-- A frame sent into an empty queue is all of it (R101). -/
theorem State.send_of_empty {s : State} (hq : s.txq = []) (p : Params) (t : Tag) :
    s.send p t = { s with txq := controlFrame p t } := by
  rw [State.send, hq, List.nil_append]

/-- A POLL whose case hangs on the deadline waits up to `TIMEOUT_MS` and recovers beyond (R119). -/
theorem exec_poll_deadline {s : State} {late early : PollCase} {c : Cause} (hq : s.txq = [])
    (hcase : s.pollCase s.settings.params = if s.timedOut s.settings.params then late else early)
    (hearly : s.runCase s.settings.params early = s.pollReturn .nopkt)
    (hlate : s.runCase s.settings.params late = s.recover s.settings.params c) :
    (s.now - s.ts ≤ s.settings.timeoutMs → exec .poll s = .next (s.pollReturn .nopkt)) ∧
    (s.settings.timeoutMs < s.now - s.ts → exec .poll s = .next (s.recover s.settings.params c)) := by
  rw [exec_poll_case hq hcase, State.timedOut_params]
  constructor
  · intro hle
    rw [if_neg (by simpa using hle), hearly]
  · intro hlt
    rw [if_pos (by simpa using hlt), hlate]

/-- Settles O26: a disabled block's POLL only answers. -/
theorem pollWhileDisabled : Obligations.PollWhileDisabled := by
  unfold Obligations.PollWhileDisabled
  exact fun _ hq hen => exec_poll_case hq (State.pollCase_eq_disabled _ hen)

/-- Settles O27: the case of P1 with an empty buffer reads no time. -/
theorem pollIdle : Obligations.PollIdle := by
  unfold Obligations.PollIdle
  exact fun _ hq hen hrst hcnt => exec_poll_case hq (State.pollCase_eq_idle _ hen hrst hcnt)

/-- Settles O28: in P1 any count but 0 gives the same case. -/
theorem pollFirstByte : Obligations.PollFirstByte := by
  unfold Obligations.PollFirstByte
  intro s hq hen hrst hcnt
  have hne : s.cnt ≠ 0#9 := by bv_omega
  exact exec_poll_case hq (State.pollCase_eq_firstByte _ hen hrst hne)

/-- Settles O29: the empty buffer is looked at first, in P2 as in BODY. -/
theorem pollEmptyOutsideP1 : Obligations.PollEmptyOutsideP1 := by
  unfold Obligations.PollEmptyOutsideP1
  intro s hq hen hrst hcnt
  rcases hrst with hrst | hrst
  · exact exec_poll_case hq (State.pollCase_eq_p2Empty _ hen hrst hcnt)
  · exact exec_poll_case hq (State.pollCase_eq_bodyEmpty _ hen hrst hcnt)

/-- Settles O31: the deadline of the lone first byte. -/
theorem pollPrologueWaitOrTimeout : Obligations.PollPrologueWaitOrTimeout := by
  unfold Obligations.PollPrologueWaitOrTimeout
  exact fun _ hq hen hrst hcnt => exec_poll_deadline hq (State.pollCase_eq_p2OneByte _ hen hrst hcnt) rfl rfl

/-- Settles O32: the accept asks for the complement alone, and `TXQ` was empty. -/
theorem pollPrologueAccept : Obligations.PollPrologueAccept := by
  unfold Obligations.PollPrologueAccept
  intro s hq hen hrst hcnt hcomp
  rw [exec_poll_case hq (State.pollCase_eq_accept _ hen hrst hcnt (State.complementOk_iff.2 hcomp)), State.runCase,
    State.send_of_empty (by exact hq), controlFrame_ready]
  rfl

/-- Settles O33: two bytes are checked, three or more are not. -/
theorem pollPrologueErrors : Obligations.PollPrologueErrors := by
  unfold Obligations.PollPrologueErrors
  intro s hq hen hrst
  refine ⟨fun hcnt hcomp => ?_, fun hcnt => ?_⟩
  · exact exec_poll_case hq (State.pollCase_eq_prologueCorrupt _ hen hrst hcnt hcomp)
  · exact exec_poll_case hq (State.pollCase_eq_prologueOverrun _ hen hrst hcnt)

/-- Settles O34: the deadline of an incomplete body, whichever way it is incomplete. -/
theorem pollBodyWaitOrTimeout : Obligations.PollBodyWaitOrTimeout := by
  unfold Obligations.PollBodyWaitOrTimeout
  intro s hq hen hrst hpart
  have hcnt : s.cnt ≠ 0#9 := by
    rcases hpart with h | ⟨h, -⟩
    · simp [h]
    · bv_omega
  exact exec_poll_deadline hq (State.pollCase_eq_bodyIncomplete _ hen hrst hcnt (hpart.imp_right And.right)) rfl rfl

/-- The view as the list of its cells (R57). -/
theorem State.packetView_eq_map (s : State) :
    s.packetView = (List.range (s.bufAt 0).toNat).map fun i => s.bufAt i := by
  simp [State.packetView, State.bufRange]

/-- The checksum check with the block's `CKSUM`, cell by cell (R60). -/
theorem State.checksumOk_iff {s : State} {c : Settings} : s.checksumOk c.params = true ↔
    Config.cksum ((List.range ((s.bufAt 0).toNat - 2)).map fun i => s.bufAt (2 + i)) = s.bufAt 1 := by
  rw [State.checksumOk, decide_eq_true_iff, State.checksumRegion, State.bufRange, s.declared_toNat]
  rfl

/-- The word of a `PKT` with the packet view is `{1, L}` (R49, R86). -/
theorem State.word_packetView (s : State) : (Response.pkt s.packetView).word = 1#1 ++ s.bufAt 0 := by
  rw [Response.word, s.length_packetView, BitVec.ofNat_toNat, BitVec.setWidth_eq]

/-- Settles O35: a complete body, with a checksum that matches and with one that does not. -/
theorem pollCompleteBody : Obligations.PollCompleteBody := by
  unfold Obligations.PollCompleteBody
  intro s hq hen hrst htwo hcnt len good
  rw [← s.packetView_eq_map]
  refine ⟨fun hgood => ?_, s.word_packetView, fun hbad => ?_⟩
  · exact exec_poll_case hq (State.pollCase_eq_ready hen hrst htwo hcnt (State.checksumOk_iff.2 hgood))
  · have hck : s.checksumOk s.settings.params = false := by rwa [← Bool.not_eq_true, State.checksumOk_iff]
    exact exec_poll_case hq (State.pollCase_eq_checksumMismatch hen hrst htwo hcnt hck)

/-- Settles O36: the count alone decides. -/
theorem pollBodyOverrun : Obligations.PollBodyOverrun := by
  unfold Obligations.PollBodyOverrun
  exact fun _ hq hen hrst htwo hover => exec_poll_case hq (State.pollCase_eq_bodyOverrun _ hen hrst htwo hover)

/-! ### Where the time plays no part (R89) -/

/-- Outside the two checked cases the dispatch looks at neither `NOW` nor `TS`. -/
theorem State.pollCase_with_time {s : State} (p : Params) (n z : Time) (hp2 : ¬ (s.rst = .p2 ∧ s.cnt = 1#9))
    (hbody : ¬ (s.rst = .body ∧ (s.cnt = 1#9 ∨ s.cnt < s.declared))) :
    State.pollCase { s with now := n, ts := z } p = s.pollCase p := by
  unfold State.pollCase
  cases hrst : s.rst with
  | p1 => rfl
  | p2 =>
    have hone : s.cnt ≠ 1#9 := fun h => hp2 ⟨hrst, h⟩
    simp only [hone, if_false]
    rfl
  | body =>
    have hdone : ¬ (s.cnt = 1#9 ∨ s.cnt < s.declared) := fun h => hbody ⟨hrst, h⟩
    have hdone' : ¬ (s.cnt = 1#9 ∨ s.cnt < State.declared { s with rst := .body, now := n, ts := z }) := hdone
    simp only [hdone, hdone', if_false]
    rfl

/-- What a case does neither reads nor writes `NOW` and `TS`. -/
theorem State.runCase_with_time (s : State) (p : Params) (c : PollCase) (n z : Time) :
    State.runCase { s with now := n, ts := z } p c = { s.runCase p c with now := n, ts := z } := by
  cases c <;> rfl

/-- Settles O39: neither the choice of the case nor its effect reads the time. -/
theorem timeIrrelevantWhereNotChecked : Obligations.TimeIrrelevantWhereNotChecked := by
  unfold Obligations.TimeIrrelevantWhereNotChecked
  intro s t n z hp2 hbody hx
  cases hx
  by_cases hq : s.txq = []
  · rw [exec_poll_case (by exact hq) (State.pollCase_with_time _ n z hp2 hbody), State.runCase_with_time,
      State.asCommand_enabled _ hq]
    rfl
  · rw [exec_poll, State.asCommand_held _ (by exact hq), State.asCommand_held _ hq]

/-! ### A ready packet stays ready (R90) -/

/-- The next POLL finds a ready packet with the view `v`. -/
structure State.ReadyWith (s : State) (v : List Byte) : Prop where
  enabled : s.txq = []
  case_eq : s.pollCase s.settings.params = .ready
  view : s.packetView = v

/-- With the same buffer every cell reads the same. -/
theorem State.bufAt_of_buf_eq {s t : State} (hbuf : t.buf = s.buf) (i : Nat) : t.bufAt i = s.bufAt i :=
  State.bufAt_congr (congrArg (·.read i) hbuf)

/-- The packet view is read from the buffer alone. -/
theorem State.packetView_congr {s t : State} (hbuf : t.buf = s.buf) : t.packetView = s.packetView := by
  simp only [State.packetView_eq_map, State.bufAt_of_buf_eq hbuf]

/-- Readiness is read from `EN`, `RST`, `CNT`, `BUF`, `TXQ` and the parameters (R73). -/
theorem State.ReadyWith.congr {s t : State} {v : List Byte} (h : s.ReadyWith v) (hen : t.en = s.en)
    (hrst : t.rst = s.rst) (hcnt : t.cnt = s.cnt) (hbuf : t.buf = s.buf) (hq : t.txq = s.txq)
    (hset : t.settings = s.settings) : t.ReadyWith v where
  enabled := hq.trans h.enabled
  case_eq := by
    obtain ⟨hsen, hsrst, h0, h1, hfull, hck⟩ := State.pollCase_ready h.case_eq
    have hcell := State.bufAt_of_buf_eq hbuf
    refine State.pollCase_eq_ready (hen.trans hsen) (hrst.trans hsrst) (by rw [hcnt]; bv_omega) ?_ ?_
    · rw [hcnt, hfull, State.declared, State.declared, hcell]
    · rw [hset]
      rw [State.checksumOk_iff] at hck ⊢
      simpa only [hcell] using hck
  view := (State.packetView_congr hbuf).trans h.view

/-- A POLL on a ready packet hands it over (R86). -/
theorem exec_poll_readyWith {s : State} {v : List Byte} (h : s.ReadyWith v) :
    exec .poll s = .next (s.pollReturn (.pkt v)) := by
  rw [exec_poll_case h.enabled h.case_eq, State.runCase, h.view]

/-- A POLL that answered `PKT(v)` leaves the packet ready: it writes no register (R86, R90). -/
theorem readyWith_of_exec_poll {s t : State} {v : List Byte} (hx : exec .poll s = .next t)
    (hresp : t.trace.responses = s.trace.responses ++ [.pkt v]) :
    t.ReadyWith v ∧ t.rst = s.rst ∧ t.cnt = s.cnt := by
  have hq : s.txq = [] := by
    by_contra hne
    rw [exec_poll, State.asCommand_held _ hne] at hx
    cases hx
    simp at hresp
  obtain ⟨hcase, rfl, rfl⟩ := exec_poll_pkt hx hresp
  have hready : s.ReadyWith s.packetView := ⟨hq, hcase, rfl⟩
  exact ⟨hready.congr rfl rfl rfl rfl rfl rfl, rfl, rfl⟩

/-- Every step but RX_BYTE, ACKPKT and BEGIN keeps a ready packet ready, and `RST` and `CNT` with it (R90). -/
theorem exec_readyWith {i : Instr} {s t : State} {v : List Byte} (h : s.ReadyWith v)
    (hi : i ≠ .ackpkt ∧ i ≠ .beginCmd ∧ ∀ b, i ≠ .rx b) (hx : exec i s = .next t) :
    t.ReadyWith v ∧ t.rst = s.rst ∧ t.cnt = s.cnt := by
  obtain ⟨hack, hbegin, hrx⟩ := hi
  rcases exec_cases hx with rfl | ⟨heq, -⟩ | ⟨rfl, -⟩ | ⟨heq, -⟩ | ⟨-, -, rfl⟩ |
    ⟨b, heq, -⟩ | ⟨-, hne, -⟩ | ⟨_, -, rfl⟩ | ⟨_, -, rfl⟩
  · exact ⟨h, rfl, rfl⟩
  · exact absurd heq hbegin
  · cases (exec_poll_readyWith h).symm.trans hx
    exact ⟨h.congr rfl rfl rfl rfl rfl rfl, rfl, rfl⟩
  · exact absurd heq hack
  · exact ⟨h.congr rfl rfl rfl rfl rfl rfl, rfl, rfl⟩
  · exact absurd heq (hrx b)
  · exact absurd h.enabled hne
  · exact ⟨h.congr rfl rfl rfl rfl rfl rfl, rfl, rfl⟩
  · exact ⟨h.congr rfl rfl rfl rfl rfl rfl, rfl, rfl⟩

/-- One byte more than a ready packet is stored, and the next POLL reports the overrun (R88, R90). -/
theorem exec_rx_readyWith {s : State} {v : List Byte} (h : s.ReadyWith v) (b : Byte) :
    exec (.rx b) s = .next (s.store b) ∧
      exec .poll (s.store b) = .next ((s.store b).recover (s.store b).settings.params .bodyOverrun) := by
  obtain ⟨hen, hrst, h0, h1, hfull, -⟩ := State.pollCase_ready h.case_eq
  have hcnt : s.cnt.toNat = (s.bufAt 0).toNat := by rw [hfull, s.declared_toNat]
  have hroom : s.cnt.toNat < 256 := hcnt ▸ (s.bufAt 0).isLt
  have hmore := State.store_cnt_toNat b hroom
  have hlen : (s.store b).bufAt 0 = s.bufAt 0 :=
    s.bufAt_store_of_ne b (by rw [s.cursor_eq hroom]; bv_omega)
  have hover : (s.store b).declared < (s.store b).cnt := by
    rw [BitVec.lt_def, State.declared_toNat, hlen, hmore, hcnt]
    exact Nat.lt_succ_self _
  refine ⟨exec_rx_stores b hen (by bv_omega), ?_⟩
  exact exec_poll_case (s := s.store b) h.enabled (State.pollCase_eq_bodyOverrun _ hen hrst (by bv_omega) hover)

/-- Settles O43: the steps between keep the packet ready, so the next POLL hands it over again, and one more byte
overruns it. -/
theorem readinessIsIdempotent : Obligations.ReadinessIsIdempotent := by
  unfold Obligations.ReadinessIsIdempotent
  intro s t u v is hpoll hresp his hx
  obtain ⟨hready, hrst, hcnt⟩ : u.ReadyWith v ∧ u.rst = s.rst ∧ u.cnt = s.cnt := by
    refine execAll_keeps (P := fun w => w.ReadyWith v ∧ w.rst = s.rst ∧ w.cnt = s.cnt) ?_
      (readyWith_of_exec_poll hpoll hresp) hx
    intro i hi w w' hw hx'
    obtain ⟨hready, hrst, hcnt⟩ := hw
    obtain ⟨hready', hrst', hcnt'⟩ := exec_readyWith hready (his i hi) hx'
    exact ⟨hready', hrst'.trans hrst, hcnt'.trans hcnt⟩
  exact ⟨⟨hrst, hcnt, _, exec_poll_readyWith hready, rfl⟩, fun b => ⟨_, exec_rx_readyWith hready b⟩⟩

/-! ### Attempts that fail (95_test_vectors.md L1) -/

/-- Settles O51: the prologue check fails at the second POLL, and the recovery queues the NAK. -/
theorem corruptPrologueIsNakked : Obligations.CorruptPrologueIsNakked := by
  unfold Obligations.CorruptPrologueIsNakked
  intro s x y d hen hrst hcnt hq hne
  have hprologue := execAll_prologue x y d hen hrst hcnt hq
  have hcorrupt : exec .poll (s.afterPrologue x y d) = _ :=
    exec_poll_case hq (State.pollCase_eq_prologueCorrupt _ hen rfl rfl (by simpa using hne))
  refine ⟨_, (execAll_append_of_next hprologue).trans (execAll_cons_of_next hcorrupt), rfl, rfl, ?_, ?_, ?_, rfl⟩
  · simp [State.runCase, State.afterPrologue, hq, controlFrame_nak]
  · simp [State.runCase, State.afterPrologue, Trace.polled]
  · simp [State.runCase, State.afterPrologue, Trace.polled]

/-- A block that was idle, after the first byte of an attempt, one POLL, and `d` ms (R69, R76). -/
def State.afterFirstByte (s : State) (x : Byte) (d : Time) : State :=
  { s with
    rst := .p2, cnt := 1#9, ts := s.now, buf := s.buf.write 0 x, now := s.now + d
    trace := s.trace.polled .none .nopkt }

/-- One byte and a POLL bring an idle block to P2, where it waits. -/
theorem execAll_firstByte {s : State} (x : Byte) (d : Time) (hen : s.en = true) (hrst : s.rst = .p1)
    (hcnt : s.cnt = 0#9) (hq : s.txq = []) :
    execAll [.rx x, .poll, .tick d] s = .next (s.afterFirstByte x d) := by
  rw [execAll_cons_of_next (exec_rx_stores x hen (by simp [hcnt])),
    execAll_cons_of_next (exec_poll_case (by exact hq)
      (State.pollCase_eq_firstByte _ (by exact hen) (by exact hrst) (by simp [hcnt]))),
    execAll_cons_of_next (exec_tick d _), execAll_nil]
  simp [State.afterFirstByte, State.runCase, State.pollReturn, State.noteCause, State.respond, Trace.polled,
    State.store, State.cursor, hcnt]

/-- The time since the first byte is what the clock has ticked, mod 2^32 (R118). -/
theorem State.afterFirstByte_elapsed (s : State) (x : Byte) (d : Time) :
    (s.afterFirstByte x d).now - (s.afterFirstByte x d).ts = d := by
  simp [State.afterFirstByte]

/-- Settles O52: the POLL after the wait is the one of P2 with one byte, and `d` ms have elapsed. -/
theorem prologueTimeoutFromTheFirstByte : Obligations.PrologueTimeoutFromTheFirstByte := by
  unfold Obligations.PrologueTimeoutFromTheFirstByte
  intro s x d hen hrst hcnt hq
  have hfirst := execAll_firstByte x d hen hrst hcnt hq
  obtain ⟨hwait, hlate⟩ := pollPrologueWaitOrTimeout (s.afterFirstByte x d) hq hen rfl rfl
  rw [State.afterFirstByte_elapsed] at hwait hlate
  by_cases hd : s.settings.timeoutMs < d
  · refine ⟨_, (execAll_append_of_next hfirst).trans (execAll_cons_of_next (hlate hd)), ?_, fun _ => ?_,
      fun hle => absurd hd (BitVec.not_lt.2 hle)⟩
    · simp [State.afterFirstByte, Trace.polled]
    · simp [State.afterFirstByte, Trace.polled, hq, controlFrame_nak]
  · refine ⟨_, (execAll_append_of_next hfirst).trans (execAll_cons_of_next (hwait (BitVec.not_lt.1 hd))), ?_,
      fun hlt => absurd hlt hd, fun _ => ?_⟩
    · simp [State.afterFirstByte, Trace.polled]
    · simp [State.afterFirstByte, Trace.polled, hq]

/-- Settles O53: a byte behind the first neither moves `TS` nor the declared length, so the POLL's deadline is the
attempt's. -/
theorem bodyDeadlineIsNotExtended : Obligations.BodyDeadlineIsNotExtended := by
  unfold Obligations.BodyDeadlineIsNotExtended
  intro s bs hen hrst hq hcnt hpart
  have hbyte := (s.bufAt 0).isLt
  obtain ⟨t, hx, htcnt, -, hold, hts, hframe⟩ := execAll_rx bs s hen (by omega)
  rw [if_neg (fun h => hcnt h.2)] at hts
  have hfirst : t.bufAt 0 = s.bufAt 0 := State.bufAt_congr (hold 0 (by bv_omega))
  have htpart : t.cnt < t.declared := by rwa [BitVec.lt_def, t.declared_toNat, hfirst, htcnt]
  have ht0 : t.cnt ≠ 0#9 := by bv_omega
  have hcase := State.pollCase_eq_bodyIncomplete t.settings.params (by rw [hframe]; exact hen)
    (by rw [hframe]; exact hrst) ht0 (.inr htpart)
  have htq : t.txq = [] := by rw [hframe]; exact hq
  have hset : t.settings = s.settings := by rw [hframe]
  have hnow : t.now = s.now := by rw [hframe]
  have htrace : t.trace = s.trace := by rw [hframe]
  obtain ⟨hwait, hlate⟩ := exec_poll_deadline htq hcase rfl rfl
  rw [hset, hnow, hts] at hwait hlate
  by_cases hd : s.settings.timeoutMs < s.now - s.ts
  · refine ⟨_, (execAll_append_of_next hx).trans (execAll_cons_of_next (hlate hd)), hts, ?_⟩
    rw [if_pos hd, State.recover_trace, htrace]
  · refine ⟨_, (execAll_append_of_next hx).trans (execAll_cons_of_next (hwait (BitVec.not_lt.1 hd))), hts, ?_⟩
    rw [if_neg hd, State.pollReturn_trace, htrace]

end Sys2Proof.Machine

/-! ## Commands (42_commands.md): BEGIN, ACKPKT, the reserved command, READ -/

namespace Sys2Proof.Machine

/-! ### Each command that is enabled, as one step (R92) -/

/-- An answer appends to the response trace and does nothing else (R20, R92). -/
theorem State.respond_eq (s : State) (r : Response) : s.respond r = { s with trace := s.trace.answered r } := rfl

theorem exec_beginCmd_enabled {s : State} (hq : s.txq = []) :
    exec .beginCmd s = .next (s.begin s.settings.params) := by
  rw [exec_beginCmd, State.asCommand_enabled _ hq]

theorem exec_ackpkt_enabled {s : State} (hq : s.txq = []) :
    exec .ackpkt s = .next (s.ackpkt s.settings.params) := by
  rw [exec_ackpkt, State.asCommand_enabled _ hq]

theorem exec_rsvd_enabled {s : State} (hq : s.txq = []) : exec .rsvd s = .next (s.respond .nopkt) := by
  rw [exec_rsvd, State.asCommand_enabled _ hq]

/-! ### What each command does -/

/-- Settles O18: BEGIN is one update that does not read `EN`, and the ALIVE frame is all of the queue. -/
theorem beginCompletes : Obligations.BeginCompletes := by
  unfold Obligations.BeginCompletes
  intro s hq
  rw [exec_beginCmd_enabled hq, State.begin_eq, hq, List.nil_append, controlFrame_alive, Trace.answered]

/-- Settles O19: an enabled block's ACKPKT is one update that does not read `RST`, and the READY frame is all of the
queue. -/
theorem ackpktCompletes : Obligations.AckpktCompletes := by
  unfold Obligations.AckpktCompletes
  intro s hq hen
  rw [exec_ackpkt_enabled hq, State.ackpkt_enabled _ hen, hq, List.nil_append, controlFrame_ready, Trace.answered]

/-- Settles O20: a disabled block's ACKPKT only answers. -/
theorem ackpktWhileDisabled : Obligations.AckpktWhileDisabled := by
  unfold Obligations.AckpktWhileDisabled
  intro s hq hen
  rw [exec_ackpkt_enabled hq, State.ackpkt_disabled _ hen, State.respond_eq]

/-- Settles O21: the code is the reserved command's, and that command only answers, whatever `EN` is. -/
theorem rsvdCompletes : Obligations.RsvdCompletes := by
  unfold Obligations.RsvdCompletes
  refine ⟨rfl, fun s hq => ?_⟩
  rw [exec_rsvd_enabled hq, State.respond_eq]

/-- Settles O23: READ has no enable, and writes `rd_data` alone. -/
theorem readCompletes : Obligations.ReadCompletes := by
  unfold Obligations.ReadCompletes
  exact fun s a => exec_read a s

end Sys2Proof.Machine

/-! ## The TX agent (43_tx.md): the frames on the wire, and the stalled sink -/

namespace Sys2Proof.Machine

/-! ### Whole frames (R104) -/

/-- Bytes that only move from `TXQ` to the wire keep the frames whole. -/
theorem State.FramedWire.congr {s t : State} (h : s.FramedWire) (hcfg : t.settings = s.settings)
    (hbytes : t.trace.wire ++ t.txq = s.trace.wire ++ s.txq) : t.FramedWire := by
  obtain ⟨ts, hts, heq⟩ := h
  exact ⟨ts, hts, by rw [hbytes, hcfg, heq]⟩

/-- A control frame queued behind whole frames is one more of them (R101). -/
theorem State.FramedWire.append_frame {s t : State} {tag : Tag} (h : s.FramedWire) (htag : tag ∈ controlTags)
    (hcfg : t.settings = s.settings) (hwire : t.trace.wire = s.trace.wire)
    (hq : t.txq = s.txq ++ controlFrame s.settings.params tag) : t.FramedWire := by
  obtain ⟨ts, hts, heq⟩ := h
  refine ⟨ts ++ [tag], fun u hu => ?_, ?_⟩
  · rcases List.mem_append.1 hu with hu | hu
    · exact hts u hu
    · exact List.mem_singleton.1 hu ▸ htag
  · rw [hwire, hq, hcfg, ← List.append_assoc, heq, List.flatMap_append, List.flatMap_singleton]

/-- A BEGIN that runs queues an ALIVE frame (R93). -/
theorem State.FramedWire.begin {s : State} (h : s.FramedWire) : (s.begin s.settings.params).FramedWire :=
  h.append_frame (tag := .alive) (by simp [controlTags]) rfl rfl rfl

/-- An ACKPKT that runs queues a READY frame or nothing (R95, R97). -/
theorem State.FramedWire.ackpkt {s : State} (h : s.FramedWire) : (s.ackpkt s.settings.params).FramedWire := by
  cases hen : s.en with
  | false =>
    rw [State.ackpkt_disabled _ hen]
    exact h.congr rfl rfl
  | true =>
    rw [State.ackpkt_enabled _ hen]
    exact h.append_frame (tag := .ready) (by simp [controlTags]) rfl rfl rfl

/-- A POLL that runs queues a NAK frame, a READY frame or nothing (R80, R109). -/
theorem State.FramedWire.poll {s : State} (h : s.FramedWire) : (s.poll s.settings.params).FramedWire := by
  rcases s.poll_shapes s.settings.params with ⟨-, c, -, heq⟩ | ⟨-, heq⟩ | ⟨-, -, q, r, heq, -⟩
  · exact heq ▸ h.append_frame (tag := .nak) (by simp [controlTags]) rfl rfl rfl
  · exact heq ▸ h.append_frame (tag := .ready) (by simp [controlTags]) rfl rfl rfl
  · exact heq ▸ h.congr rfl rfl

/-- The byte that leaves `TXQ` is the next on the wire (R103). -/
theorem State.FramedWire.popTx {s : State} (h : s.FramedWire) : s.popTx.FramedWire := by
  refine h.congr s.popTx_settings ?_
  cases hq : s.txq with
  | nil => simp [hq]
  | cons b rest => simp [hq]

/-- Every instruction keeps the frames whole. -/
theorem exec_framedWire {i : Instr} {s t : State} (h : s.FramedWire) (hx : exec i s = .next t) : t.FramedWire := by
  rcases exec_cases hx with rfl | ⟨-, -, rfl⟩ | ⟨-, -, rfl⟩ | ⟨-, -, rfl⟩ | ⟨-, -, rfl⟩ |
    ⟨b, -, -, -, rfl⟩ | ⟨-, -, -, rfl⟩ | ⟨_, -, rfl⟩ | ⟨_, -, rfl⟩
  · exact h
  · exact h.begin
  · exact h.poll
  · exact h.ackpkt
  · exact h.congr rfl rfl
  · exact h.congr rfl rfl
  · exact h.popTx
  · exact h.congr rfl rfl
  · exact h.congr rfl rfl

/-- A list of instructions keeps the frames whole. -/
theorem execAll_framedWire {is : List Instr} {s t : State} (h : s.FramedWire) (hx : execAll is s = .next t) :
    t.FramedWire :=
  execAll_keeps (fun _ _ _ _ hu hv => exec_framedWire hu hv) h hx

/-- A clock edge with `rst_n = 1` keeps the frames whole: it is a list of instructions, and the port side sends
nothing. -/
theorem clockEdge_framedWire {e : Edge} {commit : Bool} {s t : State} (h : s.FramedWire) (hr : e.rstN = true)
    (hx : clockEdge e commit s = .next t) : t.FramedWire := by
  obtain ⟨u, hu, rfl⟩ := clockEdge_run hr hx
  have hsink : State.FramedWire { s with sinkReady := e.txReady } := h.congr rfl rfl
  exact (execAll_framedWire hsink hu).congr rfl rfl

/-- Settles O48: the kinds of input one by one; an instruction queues at most one control frame and moves bytes from
`TXQ` to the wire in order, and an edge that does not reset is a list of instructions. -/
theorem wireStaysWholeFrames : Obligations.WireStaysWholeFrames := by
  unfold Obligations.WireStaysWholeFrames
  intro s t h hnr hx
  rcases step_cases hx with ⟨-, rfl⟩ | ⟨_, rest, _, -, -, hx⟩ | ⟨_, _, -, rfl⟩ | ⟨e, commit, rest, hin, hx⟩
  · exact h
  · exact exec_framedWire (s := { s with inputs := rest }) (h.congr rfl rfl) hx
  · exact h.congr rfl rfl
  · exact clockEdge_framedWire (s := { s with inputs := rest }) (h.congr rfl rfl) (hnr e commit rest hin) hx

/-! ### The stalled sink (R106, R139) -/

/-- With the sink stalled and a byte queued only RX_BYTE, READ and TICK do anything (R92, R103, log 2): what they write
is all a step can change. -/
theorem exec_stalled {i : Instr} {s t : State} (hq : s.txq ≠ []) (hr : s.sinkReady = false)
    (hx : exec i s = .next t) :
    t = { s with cnt := t.cnt, ts := t.ts, buf := t.buf, now := t.now, rdData := t.rdData } := by
  rcases exec_cases hx with rfl | ⟨-, hempty, -⟩ | ⟨-, hempty, -⟩ | ⟨-, hempty, -⟩ | ⟨-, hempty, -⟩ |
    ⟨b, -, -, -, rfl⟩ | ⟨-, -, hready, -⟩ | ⟨_, -, rfl⟩ | ⟨_, -, rfl⟩
  · rfl
  · exact absurd hempty hq
  · exact absurd hempty hq
  · exact absurd hempty hq
  · exact absurd hempty hq
  · rfl
  · exact absurd (hr.symm.trans hready) Bool.false_ne_true
  · rfl
  · rfl

/-- The stall lasts through any list of steps, as no step of it can end it. -/
theorem execAll_stalled {is : List Instr} {s t : State} (hq : s.txq ≠ []) (hr : s.sinkReady = false)
    (hx : execAll is s = .next t) :
    t = { s with cnt := t.cnt, ts := t.ts, buf := t.buf, now := t.now, rdData := t.rdData } := by
  refine execAll_keeps (P := fun u =>
    u = { s with cnt := u.cnt, ts := u.ts, buf := u.buf, now := u.now, rdData := u.rdData }) ?_ rfl hx
  intro i _ u v hu hv
  have hqu : u.txq ≠ [] := by rw [hu]; exact hq
  have hru : u.sinkReady = false := by rw [hu]; exact hr
  rw [exec_stalled hqu hru hv, hu]

/-- Settles O46: `TXQ`, the sink, the traces, `EN` and `RST` are none of what a stalled block's steps write. -/
theorem sinkStallHangs : Obligations.SinkStallHangs := by
  unfold Obligations.SinkStallHangs
  intro is s t hq hr hx
  rw [execAll_stalled hq hr hx]
  exact ⟨rfl, hr, rfl, rfl, rfl⟩

end Sys2Proof.Machine

/-! ## Exceptions (60_exceptions.md): the clock, the one recovery, and the cause that a POLL notes -/

namespace Sys2Proof.Machine

/-! ### The clock (R117) -/

/-- TICK aside, no instruction changes `NOW` (R117). -/
theorem exec_now {i : Instr} {s t : State} (hx : exec i s = .next t) : t.now = s.now ∨ ∃ d, i = .tick d := by
  rcases exec_cases hx with rfl | ⟨-, -, rfl⟩ | ⟨-, -, rfl⟩ | ⟨-, -, rfl⟩ | ⟨-, -, rfl⟩ | ⟨_, -, -, -, rfl⟩ |
    ⟨-, -, -, rfl⟩ | ⟨_, -, rfl⟩ | ⟨d, rfl, -⟩
  · exact .inl rfl
  · exact .inl rfl
  · obtain ⟨-, -, hnow, -⟩ := s.poll_frame s.settings.params
    exact .inl hnow
  · exact .inl (by rw [State.ackpkt_frame])
  · exact .inl rfl
  · exact .inl rfl
  · exact .inl s.popTx_now
  · exact .inl rfl
  · exact .inr ⟨d, rfl⟩

/-- Settles O25: TICK is one update, its sum is taken mod 2^32, and the other instructions keep `NOW`. -/
theorem tickCompletes : Obligations.TickCompletes := by
  unfold Obligations.TickCompletes
  exact ⟨fun s d => ⟨exec_tick d s, BitVec.toNat_add s.now d⟩, fun _ _ _ hx hne => (exec_now hx).resolve_left hne⟩

/-! ### The one recovery (R109) -/

/-- RECOVER as one update, whatever the queue holds (R109). -/
theorem State.recover_eq (s : State) (p : Params) (c : Cause) :
    s.recover p c = { s with
      cnt := 0#9, rst := .p1, txq := s.txq ++ controlFrame p .nak, trace := s.trace.polled c .nopkt } := rfl

/-- Settles O30: RECOVER is one update for every cause, and the NAK frame is all of the queue. -/
theorem recoverIsResetAndNak : Obligations.RecoverIsResetAndNak := by
  unfold Obligations.RecoverIsResetAndNak
  intro s c hq
  rw [State.recover_eq, hq, List.nil_append, controlFrame_nak]

/-! ### The cause that a POLL notes (R108), and the deadline behind a timeout (R118 to R121) -/

/-- The cause of each case of POLL (R108). -/
def PollCase.cause : PollCase → Cause
  | .prologueTimeout => .prologueTimeout
  | .prologueCorrupt => .prologueCorrupt
  | .prologueOverrun => .prologueOverrun
  | .bodyTimeout => .bodyTimeout
  | .checksumMismatch => .checksumMismatch
  | .bodyOverrun => .bodyOverrun
  | .disabled | .idle | .firstByte | .p2Empty | .p2Wait | .accept | .bodyEmpty | .bodyWait | .ready => .none

/-- Each case of POLL notes its one cause (R20, R108). -/
theorem State.runCase_causes (s : State) (p : Params) (c : PollCase) :
    (s.runCase p c).trace.causes = s.trace.causes ++ [c.cause] := by
  cases c <;> rfl

/-- A POLL that notes a cause has run, and the cause is that of its case. -/
theorem exec_poll_cause {s t : State} {c : Cause} (hx : exec .poll s = .next t)
    (hcauses : t.trace.causes = s.trace.causes ++ [c]) : (s.pollCase s.settings.params).cause = c := by
  cases hx
  by_cases hq : s.txq = []
  · simpa [hq, State.poll, State.runCase_causes] using hcauses
  · simp [hq] at hcauses

/-- E1 is the cause of one case only. -/
theorem PollCase.cause_eq_prologueTimeout {k : PollCase} (h : k.cause = .prologueTimeout) : k = .prologueTimeout := by
  cases k <;> cases h
  rfl

/-- E3 is the cause of one case only. -/
theorem PollCase.cause_eq_bodyTimeout {k : PollCase} (h : k.cause = .bodyTimeout) : k = .bodyTimeout := by
  cases k <;> cases h
  rfl

/-- The conditions of a prologue timeout (R79). -/
theorem State.pollCase_prologueTimeout {s : State} {p : Params} (h : s.pollCase p = .prologueTimeout) :
    s.rst = .p2 ∧ s.cnt = 1#9 ∧ s.timedOut p = true := by
  simp only [State.pollCase] at h
  cases hrst : s.rst with
  | p1 => simp only [hrst] at h; split_ifs at h
  | p2 => simp only [hrst] at h; split_ifs at h with _ _ hcnt hlate; exact ⟨rfl, hcnt, hlate⟩
  | body => simp only [hrst] at h; split_ifs at h

/-- The conditions of a body timeout (R85). -/
theorem State.pollCase_bodyTimeout {s : State} {p : Params} (h : s.pollCase p = .bodyTimeout) :
    s.rst = .body ∧ (s.cnt = 1#9 ∨ s.cnt < s.declared) ∧ s.timedOut p = true := by
  simp only [State.pollCase] at h
  cases hrst : s.rst with
  | p1 => simp only [hrst] at h; split_ifs at h
  | p2 => simp only [hrst] at h; split_ifs at h
  | body => simp only [hrst] at h; split_ifs at h with _ _ hpart hlate; exact ⟨rfl, hpart, hlate⟩

/-- A timeout, in numbers: the time since `TS` counts mod 2^32, and the threshold itself is not yet late (R118, R119). -/
theorem State.timedOut_iff_toNat {s : State} {c : Settings} : s.timedOut c.params = true ↔
    c.timeoutMs.toNat < (s.now.toNat + (2 ^ 32 - s.ts.toNat)) % 2 ^ 32 := by
  rw [State.timedOut_params, decide_eq_true_iff, BitVec.lt_def, BitVec.toNat_sub, Nat.add_comm]

/-- Settles O40: a timeout cause names the case that ran, and the dispatch enters that case only behind the deadline. -/
theorem timeoutOnlyAfterTheDeadline : Obligations.TimeoutOnlyAfterTheDeadline := by
  unfold Obligations.TimeoutOnlyAfterTheDeadline
  intro s t c hx hcauses
  have hcause := exec_poll_cause hx hcauses
  refine ⟨fun hc => ?_, fun hc => ?_⟩
  · obtain ⟨hrst, hcnt, hlate⟩ := State.pollCase_prologueTimeout (PollCase.cause_eq_prologueTimeout (hcause.trans hc))
    exact ⟨hrst, hcnt, State.timedOut_iff_toNat.1 hlate⟩
  · obtain ⟨hrst, hpart, hlate⟩ := State.pollCase_bodyTimeout (PollCase.cause_eq_bodyTimeout (hcause.trans hc))
    exact ⟨hrst, hpart, State.timedOut_iff_toNat.1 hlate⟩

end Sys2Proof.Machine

/-! ## Reset and hazards (70_reset_and_hazards.md): the edge with `rst_n = 0`, and the POLLs that an attempt needs -/

namespace Sys2Proof.Machine

/-! ### The edge with `rst_n = 0` (R126, R127) -/

/-- A step that is an edge with `rst_n = 0` as one update: the READ port, the clock and the sink go on, and the block is
reset (R126, log 24). -/
theorem step_edge_reset {s : State} {e : Edge} {commit : Bool} {rest : List Input}
    (hin : s.inputs = .edge e commit :: rest) (hr : e.rstN = false) :
    step s = .next (State.resetPin { s with
      inputs := rest, sinkReady := e.txReady, rdData := s.bufAt e.rdAddr.toNat, now := e.nowMs }) := by
  obtain ⟨t, ht⟩ := clockEdge_total e commit { s with inputs := rest }
  obtain ⟨u, hu, rfl⟩ := clockEdge_reset hr ht
  cases (execAll_read_tick { s with inputs := rest } e e.txReady).symm.trans hu
  exact (step_edge hin).trans ht

/-- Settles O11: of the edge's transactions only READ and TICK run, which touch no register, and `State.resetPin` sets
the rest. -/
theorem resetEdge : Obligations.ResetEdge := by
  unfold Obligations.ResetEdge
  intro s e commit rest hin hr
  exact ⟨_, step_edge_reset hin hr, rfl, rfl, rfl, rfl, rfl, fun _ => rfl, rfl, rfl, rfl, rfl, rfl, rfl⟩

/-! ### A trace that grows by one value only -/

/-- `l'` is `l` with copies of `x`, or nothing, at its end. -/
def OnlyAdds {α : Type} (x : α) (l l' : List α) : Prop := ∃ k, l' = l ++ List.replicate k x

section
variable {α : Type} {x : α} {l l' l'' : List α}

theorem OnlyAdds.refl (x : α) (l : List α) : OnlyAdds x l l := ⟨0, by simp⟩

theorem OnlyAdds.of_eq (h : l' = l) : OnlyAdds x l l' := h ▸ .refl x l

theorem OnlyAdds.of_append_singleton (h : l' = l ++ [x]) : OnlyAdds x l l' := ⟨1, h⟩

theorem OnlyAdds.trans (h : OnlyAdds x l l') (h' : OnlyAdds x l' l'') : OnlyAdds x l l'' := by
  obtain ⟨j, rfl⟩ := h
  obtain ⟨k, rfl⟩ := h'
  exact ⟨j + k, by rw [List.append_assoc, List.replicate_append_replicate]⟩

/-- What was added is `x` throughout. -/
theorem OnlyAdds.mem_drop (h : OnlyAdds x l l') : ∀ y ∈ l'.drop l.length, y = x := by
  obtain ⟨k, rfl⟩ := h
  rw [List.drop_left]
  exact fun _ => List.eq_of_mem_replicate

end

/-! ### How far one step takes an attempt: the code of `RST` counts the stages behind it (R54, R134) -/

/-- Only P1 has no stage behind it. -/
theorem RecvState.eq_p1_of_code_lt {q : RecvState} (h : q.code.toNat < 1) : q = .p1 := by
  cases q with
  | p1 => rfl
  | p2 => exact absurd h (by decide)
  | body => exact absurd h (by decide)

/-- BODY has two stages behind it. -/
theorem RecvState.ne_body_of_code_lt {q : RecvState} (h : q.code.toNat < 2) : q ≠ .body := by
  rintro rfl
  exact absurd h (by decide)

/-- A POLL is held or runs (R92). -/
theorem exec_poll_cases {s t : State} (hx : exec .poll s = .next t) : t = s ∨ t = s.poll s.settings.params := by
  cases hx
  by_cases hq : s.txq = []
  · exact .inr (State.asCommand_enabled _ hq)
  · exact .inl (State.asCommand_held _ hq)

/-- A step that is no POLL keeps `RST` or resets it, notes no cause, and answers NOPKT if anything (R73). -/
theorem exec_of_ne_poll {i : Instr} {s t : State} (hi : i ≠ .poll) (hx : exec i s = .next t) :
    (t.rst = s.rst ∨ t.rst = .p1) ∧ t.trace.causes = s.trace.causes ∧
      OnlyAdds .nopkt s.trace.responses t.trace.responses := by
  rcases exec_cases hx with rfl | ⟨-, -, rfl⟩ | ⟨heq, -⟩ | ⟨-, -, rfl⟩ | ⟨-, -, rfl⟩ | ⟨_, -, -, -, rfl⟩ |
    ⟨-, -, -, rfl⟩ | ⟨_, -, rfl⟩ | ⟨_, -, rfl⟩
  · exact ⟨.inl rfl, rfl, .refl _ _⟩
  · exact ⟨.inr rfl, rfl, .of_append_singleton rfl⟩
  · exact absurd heq hi
  · cases hen : s.en with
    | true => rw [State.ackpkt_enabled _ hen]; exact ⟨.inr rfl, rfl, .of_append_singleton rfl⟩
    | false => rw [State.ackpkt_disabled _ hen]; exact ⟨.inl rfl, rfl, .of_append_singleton rfl⟩
  · exact ⟨.inl rfl, rfl, .of_append_singleton rfl⟩
  · exact ⟨.inl rfl, rfl, .refl _ _⟩
  · exact ⟨.inl s.popTx_rst, by simp, .of_eq (by simp)⟩
  · exact ⟨.inl rfl, rfl, .refl _ _⟩
  · exact ⟨.inl rfl, rfl, .refl _ _⟩

/-- One POLL takes `RST` at most one stage on: P1 to P2, or P2 to BODY (R76, R80). -/
theorem State.poll_rst_code_le (s : State) (p : Params) : (s.poll p).rst.code.toNat ≤ s.rst.code.toNat + 1 := by
  rcases s.poll_shapes p with ⟨-, _, -, heq⟩ | ⟨hacc, heq⟩ | ⟨-, -, q, _, heq, hq⟩
  · rw [heq]; exact Nat.zero_le _
  · obtain ⟨-, hrst, -, -⟩ := State.pollCase_accept hacc
    rw [heq, hrst]; rfl
  · rw [heq]
    rcases hq with rfl | ⟨-, hrst, -, rfl⟩ | ⟨-, -, rfl⟩
    · exact Nat.le_succ _
    · rw [hrst]; rfl
    · exact Nat.zero_le _

/-- Only a POLL takes `RST` on, by one stage at most. -/
theorem exec_rst_code_le {i : Instr} {s t : State} (hx : exec i s = .next t) :
    t.rst.code.toNat ≤ s.rst.code.toNat + [i].count .poll := by
  by_cases hi : i = .poll
  · subst hi
    rcases exec_poll_cases hx with rfl | rfl
    · exact Nat.le_add_right _ _
    · exact s.poll_rst_code_le _
  · obtain ⟨hsame | hreset, -⟩ := exec_of_ne_poll hi hx
    · rw [hsame]; exact Nat.le_add_right _ _
    · rw [hreset]; exact Nat.zero_le _

/-- A step notes no cause but 0, unless it is a POLL outside P1 (R75, R76, R108). -/
theorem exec_causes_none {i : Instr} {s t : State} (hx : exec i s = .next t)
    (hearly : i = .poll → s.rst.code.toNat < 1) : OnlyAdds .none s.trace.causes t.trace.causes := by
  by_cases hi : i = .poll
  · have hp1 := RecvState.eq_p1_of_code_lt (hearly hi)
    subst hi
    rcases exec_poll_cases hx with rfl | rfl
    · exact .refl _ _
    · rcases s.poll_shapes s.settings.params with ⟨herr, -⟩ | ⟨-, heq⟩ | ⟨-, -, _, _, heq, -⟩
      · obtain ⟨-, hne, -⟩ := State.pollCase_error herr
        exact absurd hp1 hne
      · exact .of_append_singleton (by rw [heq]; rfl)
      · exact .of_append_singleton (by rw [heq]; rfl)
  · obtain ⟨-, hcauses, -⟩ := exec_of_ne_poll hi hx
    exact .of_eq hcauses

/-- A step answers NOPKT if anything, unless it is a POLL in BODY (R49, R86). -/
theorem exec_responses_nopkt {i : Instr} {s t : State} (hx : exec i s = .next t)
    (hearly : i = .poll → s.rst.code.toNat < 2) : OnlyAdds .nopkt s.trace.responses t.trace.responses := by
  by_cases hi : i = .poll
  · have hnready : s.pollCase s.settings.params ≠ .ready := by
      intro hready
      obtain ⟨-, hbody, -⟩ := State.pollCase_ready hready
      exact RecvState.ne_body_of_code_lt (hearly hi) hbody
    subst hi
    rcases exec_poll_cases hx with rfl | rfl
    · exact .refl _ _
    · exact .of_append_singleton (by rw [State.poll, State.runCase_responses, if_neg hnready])
  · obtain ⟨-, -, hresp⟩ := exec_of_ne_poll hi hx
    exact hresp

/-! ### How far a list of steps takes an attempt (R134) -/

/-- A list of steps takes `RST` on by no more stages than it has POLLs. -/
theorem execAll_rst_code_le {is : List Instr} {s t : State} (hx : execAll is s = .next t) :
    t.rst.code.toNat ≤ s.rst.code.toNat + is.count .poll := by
  induction is generalizing s with
  | nil => cases hx; exact Nat.le_add_right _ _
  | cons i is ih =>
    obtain ⟨u, hu⟩ := exec_total i s
    rw [execAll_cons_of_next hu] at hx
    rw [← List.singleton_append, List.count_append, ← Nat.add_assoc]
    exact (ih hx).trans (Nat.add_le_add_right (exec_rst_code_le hu) _)

/-- If the trace `f` grows only by `x` until a POLL finds stage `n` of `RST`, it does so along every list of steps with
too few POLLs to reach that stage and POLL in it. -/
theorem execAll_onlyAdds {α : Type} {x : α} {f : State → List α} {n : Nat}
    (hstep : ∀ i s t, exec i s = .next t → (i = .poll → s.rst.code.toNat < n) → OnlyAdds x (f s) (f t))
    {is : List Instr} {s t : State} (hfew : s.rst.code.toNat + is.count .poll ≤ n) (hx : execAll is s = .next t) :
    OnlyAdds x (f s) (f t) := by
  induction is generalizing s with
  | nil => cases hx; exact .refl _ _
  | cons i is ih =>
    obtain ⟨u, hu⟩ := exec_total i s
    rw [execAll_cons_of_next hu] at hx
    rw [← List.singleton_append, List.count_append] at hfew
    have hcode := exec_rst_code_le hu
    have hearly (hi : i = .poll) : s.rst.code.toNat < n := by
      rw [hi, List.count_singleton_self] at hfew
      omega
    exact (hstep i s u hu hearly).trans (ih (by omega) hx)

/-- Settles O41: from P1 the n-th POLL finds `RST` at stage n - 1 at most, so the first finds no error and the second
no packet. -/
theorem pollsNeededPerAttempt : Obligations.PollsNeededPerAttempt := by
  unfold Obligations.PollsNeededPerAttempt
  intro is s t hrst hx
  have hstart : s.rst.code.toNat + is.count .poll = is.count .poll := by rw [hrst]; exact Nat.zero_add _
  refine ⟨fun hone => ⟨fun hbody => ?_, ?_⟩, fun htwo => ?_⟩
  · have hreach := execAll_rst_code_le hx
    rw [hstart, hbody] at hreach
    exact absurd (hreach.trans hone) (by decide)
  · exact (execAll_onlyAdds (f := fun u => u.trace.causes) (fun _ _ _ => exec_causes_none)
      (hstart.trans_le hone) hx).mem_drop
  · exact (execAll_onlyAdds (f := fun u => u.trace.responses) (fun _ _ _ => exec_responses_nopkt)
      (hstart.trans_le htwo) hx).mem_drop

end Sys2Proof.Machine
